-- ==== Sys2Proof/Word.lean ====
section
/-!
DEFINITION. The word types of the 8086 bus interface.

Widths: a byte is 8 bits and a word 16 (`00_scope.md` R5); a memory address on the pins is 20 bits
(`20_memory.md` R40); the T1 word is the 21 levels of BHE and A19..A0 (`30_encoding.md` R84).
Helpers that a reading of the spec could get wrong (lanes, byte order, bit positions) stand in
`Sys2Proof/Decode.lean` and in `Sys2Proof/Machine/`.
-/

namespace Sys2Proof

/-- One byte lane's worth of data (R5, R42). -/
abbrev Byte := BitVec 8

/-- The 16-bit data bus, and the width `REG_BITS` of IP, CS, DS, SS, ES and FLAGS (R11, R42). -/
abbrev Word := BitVec 16

/-- A 20-bit address as the pins carry it in T1 (R40). -/
abbrev Addr := BitVec 20

/-- The 21-bit T1 word `bhe ++ addr[19:0]` (R84). -/
abbrev T1Word := BitVec 21

end Sys2Proof
end

