-- ==== Sys2Proof/Config.lean ====
section
/-!
DEFINITION. What an implementation fixes, and what the outside supplies: the parameters of
`00_scope.md` section 4, the shapes of the inputs of one T state (R24, R21), and the free values.

A free value is an `opaque` constant with no body, applied to the number of the T state in which
it is drawn; it stands for `any(S)` of `00_scope.md` R5 ("a value chosen freely from the set S at
that step, under no law; the model must hold for every choice").
-/

namespace Sys2Proof

/-- The level strapped on MN/MX selects the mode (R110 to R112). -/
inductive Mode where
  | min
  | max
  deriving DecidableEq, Repr, Inhabited

/-- The segment registers, as S4 S3 can name them (R17, R74). -/
inductive SegReg where
  | es
  | ss
  | cs
  | ds
  deriving DecidableEq, Repr, Inhabited

/-- The internal registers the source names (R11). -/
inductive Reg where
  | flags
  | ip
  | cs
  | ds
  | ss
  | es
  deriving DecidableEq, Repr, Inhabited

/-- What a bus cycle does, besides its address and lanes: the fields `space`, `dir`, `seg`,
`wdata` and `purpose` of R21 in one type, so that the combinations R18, R158 and R159 rule out
cannot be written (an I/O access always shows CS; a fetch is a memory read through CS; an
interrupt-acknowledge cycle is a read). `Machine/Operands.lean` computes the five fields. -/
inductive BusOp where
  /-- An instruction fetch (R158). -/
  | fetch
  /-- A data read of memory at an address formed with `seg`. -/
  | memRead (seg : SegReg)
  /-- A data write of memory; `wdata` holds the bytes on the lanes they travel on. -/
  | memWrite (seg : SegReg) (wdata : Word)
  /-- A port read (R157). -/
  | ioRead
  /-- A port write (R157). -/
  | ioWrite (wdata : Word)
  /-- An interrupt-acknowledge cycle (R159). -/
  | intAck
  deriving DecidableEq, Repr, Inhabited

/-- Which 16-bit datum `d` of EU's a half of an odd-address word belongs to (R154, R155). The two
halves of one word carry one identity; other cycles, halves of other words among them, may lie
between (R155). The numbering is EU's (log entry 29). -/
abbrev DatumId := Nat

/-- What EU knows of a half of an odd-address word: what the cycle does, and its datum. -/
structure HalfOp where
  op : BusOp
  datum : DatumId
  deriving DecidableEq, Repr

/-- A bus request (R21). `bhe` is the LEVEL of BHE in T1 (`false` = 0 = the high lane takes part).
`half` is what "only EU knows" (R160): `some d` if the cycle moves one half of the odd-address word
`d`, `none` if it stands for itself. -/
structure Request where
  addr : Addr
  bhe : Bool
  half : Option DatumId
  op : BusOp
  deriving DecidableEq, Repr, Inhabited

/-- An access of one operand, before it is split into bus cycles: `MemRead`, `MemWrite`, `IORead`,
`IOWrite` of R53. `wide` says word (n = 2); a write's datum stands right-aligned in `op`; `datum` is
the identity the halves of an odd-address word get. -/
structure Access where
  addr : Addr
  wide : Bool
  op : BusOp
  datum : DatumId
  deriving DecidableEq, Repr, Inhabited

/-- The levels of the input pins in one T state (R24); `true` is high. `mnmx` is the strap, which
must not move (R112, R200). -/
structure Env where
  mnmx : Bool
  reset : Bool
  ready : Bool
  nmi : Bool
  intr : Bool
  test : Bool
  deriving DecidableEq, Repr, Inhabited

/-- What `EU` supplies in one T state (R21, R14): at most one offered request; an access it
begins; the mark of an instruction's last clock; and what its execution does to registers and
queue in this T state, seen from the next T state on. The offered request is `req`, or, if `goOn`,
the next one of the accesses and responses it has begun, if one is left (log entry 28). `start` says
that `EU` begins an instruction after this T state although no last clock was marked (after reset,
or after a response); it is void while an instruction is in execution (log entry 8). -/
structure EuIn where
  req : Option Request := none
  goOn : Bool := true
  access : Option Access := none
  instrLastClock : Bool := false
  writes : List (Reg × Word) := []
  consume : Nat := 0
  start : Bool := false
  deriving DecidableEq, Repr, Inhabited

/-- All inputs of one T state. -/
structure TInput where
  env : Env
  eu : EuIn
  deriving DecidableEq, Repr, Inhabited

/-- What `EU` does where it begins an instruction: execute the instruction whose first byte is
`b` (only 9BH, WAIT, has a meaning in the spec, R80, R81), or return from a handler (R191). -/
inductive EuAction where
  | instr (b : Byte)
  | ret
  deriving DecidableEq, Repr, Inhabited

/-- The two interrupt requests (R180). -/
inductive IntKind where
  | nmi
  | intr
  deriving DecidableEq, Repr, Inhabited

/-- The events of `raise` (R5). -/
inductive Event where
  | reset
  | nmiResponse
  | intrResponse
  deriving DecidableEq, Repr, Inhabited

/-- What `int_entry(kind, σ)` yields: "the register changes and the sequence of bus requests of
the response" (R189), and what the CPU reads in its acknowledge cycles, "part of the parameter
`int_entry`" (R159, D41): the word on AD15~AD0 in each, first to last. -/
structure IntResponse where
  writes : List (Reg × Word)
  requests : List Request
  acks : List Word
  deriving DecidableEq, Repr, Inhabited

/-- A value that depends on the state `σ` at the event, as data: how a user who supplies
`int_entry(kind, σ)` (R189) writes one. `mem seg off` is the word in memory at that address, refused at
FFFFFH (R60). The operations are a DESIGN CHOICE (log entry 32). -/
inductive EntryExpr where
  | lit (w : Word)
  | reg (r : Reg)
  | mem (seg off : EntryExpr)
  | add (x y : EntryExpr)
  | sub (x y : EntryExpr)
  | and (x y : EntryExpr)
  | or (x y : EntryExpr)
  deriving DecidableEq, Repr

/-- An access of a response: its address is formed from `seg` and `off` (R52), and `data` is what it
writes, if `op` is a write. -/
structure EntryAccess where
  op : BusOp
  wide : Bool
  seg : EntryExpr
  off : EntryExpr
  data : EntryExpr
  datum : DatumId
  deriving DecidableEq, Repr

/-- A response as a function of the state `σ` at the event (R189, R159). -/
structure EntryForm where
  writes : List (Reg × EntryExpr)
  accesses : List EntryAccess
  acks : List EntryExpr
  deriving DecidableEq, Repr

/-- The parameter `int_entry(kind, σ)` when it is supplied (R189): a fixed response for each kind, a
function of `σ` for each, or `free`, any response at all, drawn afresh at every event. -/
inductive IntEntry where
  | fixed (nmi intr : IntResponse)
  | form (nmi intr : EntryForm)
  | free
  deriving DecidableEq, Repr

/-- The parameter `fetch_kind` (R158). -/
inductive FetchKind where
  | standard
  | anyRow
  deriving DecidableEq, Repr, Inhabited

/-- The parameter `INT_PRIORITY` (R188). -/
inductive IntPriority where
  | nmiFirst
  | intrFirst
  | anyOrder
  deriving DecidableEq, Repr, Inhabited

/-- A range of ports behind which the platform has plain storage (R49). -/
structure PortRange where
  base : Nat
  size : Nat
  deriving DecidableEq, Repr, Inhabited

/-- The parameters of `00_scope.md` section 4. They are constant during a run: no step writes
them (an obligation says so). -/
structure Params where
  /-- `mode`, R112. -/
  mode : Mode
  /-- `f_clk` in hertz, R90; no rule of behaviour reads it. -/
  fClk : Nat
  /-- `IO_ADDR_BITS`, R41. -/
  ioAddrBits : Nat
  /-- The ports the platform backs with plain storage, R49. -/
  ioStorage : List PortRange
  /-- `QUEUE_LEN`, R19. -/
  queueLen : Nat
  /-- `fetch_kind`, R158. -/
  fetchKind : FetchKind
  /-- `INT_PRIORITY`, R188. -/
  intPriority : IntPriority
  /-- `int_entry`, R189; `none` is "without it". -/
  intEntry : Option IntEntry
  /-- `TEST_POLL_MAX`, R172. -/
  testPollMax : Nat
  /-- `wait_interruptible`, R174; `false` is its default, to refuse. -/
  waitInterruptible : Bool
  deriving DecidableEq, Repr

/-- The defaults of `00_scope.md` section 4. `mode` has none there: minimum mode is a DESIGN
CHOICE (log entry 3), as is no storage behind any port (log entry 12). -/
def Params.standard : Params :=
  { mode := .min
    fClk := 5000000
    ioAddrBits := 16
    ioStorage := []
    queueLen := 6
    fetchKind := .standard
    intPriority := .nmiFirst
    intEntry := none
    testPollMax := 5
    waitInterruptible := false }

/-- A level of a pin that the CPU may leave undriven (R5). -/
inductive Level where
  | low
  | high
  | z
  deriving DecidableEq, Repr, Inhabited

namespace Config

/-- `N_PINS`, R113. -/
def nPins : Nat := 40

/-- `ADDR_BITS`, R40. -/
def addrBits : Nat := 20

/-- `DATA_BITS`, R42. -/
def dataBits : Nat := 16

/-- `MIN_T_PER_CYCLE`, R91. -/
def minTPerCycle : Nat := 4

/-- What a byte of memory or of port storage that nothing has written reads as. DESIGN CHOICE:
the spec gives no initial contents (log entry 1). -/
def unwrittenByte : Byte := 0

/-- The environment's levels in T state `t` once the scripted inputs are used up (R24). -/
opaque freeEnv (t : Nat) : Env

/-- What `EU` supplies in T state `t` once the scripted inputs are used up (R4, R101). -/
opaque freeEu (t : Nat) : EuIn

/-- What `EU` does at an instruction's beginning once its scripted actions are used up (R4). -/
opaque freeAction (t : Nat) : EuAction

/-- The byte a port read returns where the platform supplies no storage (R49, U18). -/
opaque freePortByte (t port : Nat) : Byte

/-- A byte read in an interrupt-acknowledge cycle for which `int_entry` gives no data (R159). -/
opaque freeAckByte (t addr : Nat) : Byte

/-- The byte on the lane a byte read does not select; lane 0 is low, lane 1 high (R53, R156). -/
opaque freeLaneByte (t lane : Nat) : Byte

/-- The low byte of an odd-address word whose second half is read though its first was not: the spec
gives no such datum. DESIGN CHOICE (log entry 29). -/
opaque freeHalfByte (t : Nat) (d : DatumId) : Byte

/-- Whether a byte of a write that RESET cut short was taken; lane as before (R214, U8). -/
opaque freeTaken (t lane : Nat) : Bool

/-- Whether T state `t` of a wait examines TEST, within the bound (R172, U12). -/
opaque freeSample (t : Nat) : Bool

/-- Whether NMI goes first, under `INT_PRIORITY` = open (R188, U13). -/
opaque freeNmiFirst (t : Nat) : Bool

/-- What `int_entry` yields when it is `free` (R189, U14). -/
opaque freeResponse (k : IntKind) (t : Nat) : IntResponse

/-- The level, 0 or 1, of pin `pin` in T state `t` where the spec says `any({0, 1})`: S7 (R78, U1),
and RD while RESET is high (R30, U5). -/
opaque freeBit (t pin : Nat) : Bool

/-- The level of pin `pin` in T state `t`, from the CPU's side, where the spec says `any({0, 1, Z})`
(U5, D38). DESIGN CHOICE (log entry 30): it also stands for the CPU's unselected lane in a write, of
which R134, R156 and U3 say only `any`. -/
opaque freeLevel (t pin : Nat) : Level

/-- What the line of pin `pin` shows in T state `t` where the spec says `any`. DESIGN CHOICE (log
entry 30): the set is 0, 1 and Z, for nothing need drive the line, and U3, U4, R100 and R134 say
only "any value". -/
opaque freeLine (t pin : Nat) : Level

end Config

end Sys2Proof
end

