-- ==== Sys2Proof/Syntax.lean ====
section
/-!
DEFINITION. The instructions: one constructor per row of `spec/opcode_table.json`.

The five transfers are the instruction set of the bus (`42_bus_transfers.md`): `addr` is the
address on the pins in T1 and `op` what the T1 word does not show (direction, space, segment,
data; the table's notes). A half of an odd-address word also names the 16-bit datum `d` it belongs to.
WAIT is the one machine instruction the source names (R80).
-/

namespace Sys2Proof

/-- One constructor per row of the opcode table. -/
inductive Instr where
  /-- XFER.W.EVEN: a word at an even address (R151). -/
  | xferWEven (addr : Addr) (op : BusOp)
  /-- XFER.B.EVEN: a byte at an even address (R152). -/
  | xferBEven (addr : Addr) (op : BusOp)
  /-- XFER.B.ODD: a byte at an odd address (R153). -/
  | xferBOdd (addr : Addr) (op : BusOp)
  /-- XFER.W.ODD.1: the low byte of a word at an odd address, in its first bus cycle (R154). -/
  | xferWOdd1 (addr : Addr) (op : HalfOp)
  /-- XFER.W.ODD.2: its high byte, in the second bus cycle; `addr` is the address on the pins (R155). -/
  | xferWOdd2 (addr : Addr) (op : HalfOp)
  /-- WAIT (R170). -/
  | wait
  deriving DecidableEq, Repr

end Sys2Proof
end

