-- ==== Sys2Proof/WellFormed.lean ====
section
/-!
DEFINITION. Which instructions the spec gives a meaning: the parity of a transfer's address
(R151 to R155), the refused word at FFFFFH (R60, R154), and the upper address lines of an I/O access
(R41).
-/

namespace Sys2Proof

/-- An I/O access carries its port address on AD15~AD0 "with A19~A16 = 0000" (R41). -/
def ioLinesOk (addr : Addr) (op : BusOp) : Bool :=
  match op with
  | .ioRead | .ioWrite _ => addr.extractLsb' 16 4 == 0
  | .fetch | .memRead _ | .memWrite _ _ | .intAck => true

/-- The checks on an instruction. -/
def Instr.wellFormed : Instr → Bool
  | .xferWEven addr op => !addr.getLsbD 0 && ioLinesOk addr op
  | .xferBEven addr op => !addr.getLsbD 0 && ioLinesOk addr op
  | .xferBOdd addr op => addr.getLsbD 0 && ioLinesOk addr op
  | .xferWOdd1 addr op => addr.getLsbD 0 && addr != 0xFFFFF && ioLinesOk addr op.op
  | .xferWOdd2 addr op => !addr.getLsbD 0 && ioLinesOk addr op.op
  | .wait => true

end Sys2Proof
end

