-- ==== Sys2Proof/Decode.lean ====
section
/-!
DEFINITION. Decoding and encoding: the T1 word (R71, R73, R84), the byte of WAIT (R81), and what
an observer of the pins alone can tell (R160).

The pair BHE, AD0 has four codes for five rows: XFER.B.ODD and XFER.W.ODD.1 share one, and so do
XFER.B.EVEN and XFER.W.ODD.2. "A decoder written from opcode_table.json reports the pair of
candidates; only EU knows which it was" (R160). So decoding takes what EU knows of the cycle.
-/

namespace Sys2Proof

/-- The five transfer rows of the table. -/
inductive Row where
  | wEven
  | bEven
  | bOdd
  | wOdd1
  | wOdd2
  deriving DecidableEq, Repr

/-- What is encoded: the levels of 21 pins in T1 (R84), or an instruction byte (R81). -/
inductive Code where
  | t1 (w : T1Word)
  | byte (b : Byte)
  deriving DecidableEq, Repr

/-- What the T1 word does not show and EU knows: the operation, and whether the cycle moves half
of an odd-address word, and of which (R160, the table's notes). -/
structure EuKnows where
  op : BusOp
  half : Option DatumId
  deriving DecidableEq, Repr

/-- Why a code is no instruction. -/
inductive DecodeError where
  /-- BHE AD0 = 1 1 selects no byte (R79). -/
  | noByteSelected
  /-- A byte other than 9BH: the source gives no other encoding (R80). -/
  | byteNotInTable (b : Byte)
  deriving DecidableEq, Repr

/-- `t1 = bhe ++ addr[19:0]` (R84). -/
def t1Word (bhe : Bool) (addr : Addr) : T1Word := BitVec.ofBool bhe ++ addr

/-- The level of BHE, bit 20 of the T1 word (R84). -/
def t1Bhe (w : T1Word) : Bool := w.getLsbD 20

/-- The address, bits 19 to 0 of the T1 word (R84). -/
def t1Addr (w : T1Word) : Addr := w.extractLsb' 0 20

/-- A row of `opcode_table.json`: the row, its match and its mask (R84: "selected by the mask
100001H"). -/
structure TableRow where
  row : Row
  matchBits : T1Word
  mask : T1Word
  deriving DecidableEq, Repr

/-- The five transfer rows of the opcode table. -/
def t1Rows : List TableRow :=
  [ ⟨.wEven, 0x000000, 0x100001⟩,
    ⟨.bEven, 0x100000, 0x100001⟩,
    ⟨.bOdd, 0x000001, 0x100001⟩,
    ⟨.wOdd1, 0x000001, 0x100001⟩,
    ⟨.wOdd2, 0x100000, 0x100001⟩ ]

/-- What an observer of the pins reports: the rows whose pattern the T1 word matches (R160). -/
def candidates (w : T1Word) : List Row :=
  (t1Rows.filter fun t => w &&& t.mask == t.matchBits).map TableRow.row

/-- The transfer code BHE AD0 (R73), resolved by what EU knows (R160). -/
def decodeT1 (k : EuKnows) (w : T1Word) : Except DecodeError Instr :=
  match t1Bhe w, (t1Addr w).getLsbD 0 with
  | false, false => .ok (.xferWEven (t1Addr w) k.op)
  | true, false =>
    match k.half with
    | some d => .ok (.xferWOdd2 (t1Addr w) ⟨k.op, d⟩)
    | none => .ok (.xferBEven (t1Addr w) k.op)
  | false, true =>
    match k.half with
    | some d => .ok (.xferWOdd1 (t1Addr w) ⟨k.op, d⟩)
    | none => .ok (.xferBOdd (t1Addr w) k.op)
  | true, true => .error .noByteSelected

/-- WAIT is the single byte 9BH (R81); no other instruction byte is in the spec (R80). -/
def decodeByte (b : Byte) : Except DecodeError Instr :=
  if b = 0x9B then .ok .wait else .error (.byteNotInTable b)

/-- Decoding, total on every code. -/
def decode (k : EuKnows) : Code → Except DecodeError Instr
  | .t1 w => decodeT1 k w
  | .byte b => decodeByte b

/-- The code of an instruction (R71, R73, R81). -/
def encode : Instr → Code
  | .xferWEven addr _ => .t1 (t1Word false addr)
  | .xferBEven addr _ => .t1 (t1Word true addr)
  | .xferBOdd addr _ => .t1 (t1Word false addr)
  | .xferWOdd1 addr _ => .t1 (t1Word false addr)
  | .xferWOdd2 addr _ => .t1 (t1Word true addr)
  | .wait => .byte 0x9B

/-- What EU knows of an instruction it issues; WAIT has no bus operation, and any will do. -/
def Instr.known : Instr → EuKnows
  | .xferWEven _ op => ⟨op, none⟩
  | .xferBEven _ op => ⟨op, none⟩
  | .xferBOdd _ op => ⟨op, none⟩
  | .xferWOdd1 _ op => ⟨op.op, some op.datum⟩
  | .xferWOdd2 _ op => ⟨op.op, some op.datum⟩
  | .wait => ⟨.fetch, none⟩

/-- The table row of a transfer. -/
def Instr.row? : Instr → Option Row
  | .xferWEven _ _ => some .wEven
  | .xferBEven _ _ => some .bEven
  | .xferBOdd _ _ => some .bOdd
  | .xferWOdd1 _ _ => some .wOdd1
  | .xferWOdd2 _ _ => some .wOdd2
  | .wait => none

/-- What a reader of a bare table word assumes of the cycle: a data read through DS that stands
for itself. DESIGN CHOICE (log entry 14): the word does not say. -/
def bareKnowledge : EuKnows := ⟨.memRead .ds, none⟩

/-- The instruction of a table word of `nbits` bits in whole bytes: 24 for a 21-bit T1 word, 8
for an instruction byte. Of the two candidates a shared code has, the byte transfer is given. -/
def decodeTableWord (nbits w : Nat) : Option Instr :=
  if nbits = 8 then
    if w < 256 then (decodeByte (BitVec.ofNat 8 w)).toOption else none
  else if nbits = 24 ∨ nbits = 21 then
    if w < 2097152 then (decodeT1 bareKnowledge (BitVec.ofNat 21 w)).toOption else none
  else none

end Sys2Proof
end

