-- ==== Sys2Proof/Machine/State.lean ====
section
/-!
DEFINITION. The machine state `σ` of `10_state.md`, as plain data, and the state after RESET.

Groups (a) to (c) and (e) of R10 are fields. Group (d), the levels of the output pins, "are a
function of groups (a) to (c)" (R10, R25): `Machine/Pins.lean` computes them. What the spec calls
parameters of the step relation (R10: strap, clock, input levels, `EU`) stands in State as data
too, because `step` takes nothing but the state: `params`, `script`, `program` (log entry 2).
-/

namespace Sys2Proof.Machine

/-- The internal registers (R11). -/
structure Regs where
  flags : Word
  ip : Word
  cs : Word
  ds : Word
  ss : Word
  es : Word
  deriving DecidableEq, Repr

/-- The register values RESET leaves (R28). -/
def Regs.atReset : Regs :=
  { flags := 0, ip := 0, cs := 0xFFFF, ds := 0, ss := 0, es := 0 }

/-- A byte of the instruction queue, "tagged with the 20-bit address it was fetched from" (R19). -/
structure QByte where
  addr : Addr
  byte : Byte
  deriving DecidableEq, Repr

/-- The address latch of the bus control logic, and the latched BHE level (R26, R98). -/
structure Latch where
  addr : Addr
  bhe : Bool
  deriving DecidableEq, Repr

/-- The T states of a bus cycle (R91, R99). -/
inductive Phase where
  | t1
  | t2
  | t3
  | tw
  | t4
  deriving DecidableEq, Repr

/-- `σ.bus`: `idle` is T state `TI`; otherwise the T state and the cycle in progress, which is
"meaningful when σ.bus.t is not TI" (R20, R21). -/
inductive Bus where
  | idle
  | cycle (ph : Phase) (req : Request)
  deriving DecidableEq, Repr

/-- A memory: `(address, byte)` pairs in one canonical form (`Memory.wf` in `Machine/Ops.lean`). -/
abbrev Memory := List Host.Cell

/-- The value a completed read delivered to `EU` (R100): a byte, or a whole word (R76). -/
inductive Received where
  | nothing
  | byte (b : Byte)
  | word (w : Word)
  deriving DecidableEq, Repr

/-- Whose move is next: `bus`, the bus interface takes a T state; `instrEnd`, `EU` stands at the
end of an instruction whose last clock was marked; `start`, `EU` begins an instruction. -/
inductive Turn where
  | bus
  | instrEnd
  | start
  deriving DecidableEq, Repr

/-- One half of an odd-address word that EU has read: the low byte `d[7:0]` of its datum (R154). -/
structure Half where
  datum : DatumId
  low : Byte
  deriving DecidableEq, Repr

/-- Why the machine stops with a fault: never. "The model raises none; where it has no meaning for a
situation it refuses" (R187), so the type has no constructor. -/
inductive Fault where
  deriving DecidableEq, Repr

/-- The refusals. "A refusal says the model gives the run no meaning from that step on" (93, part
2). Each is safe: it makes claims unprovable, never false. -/
inductive Refusal where
  /-- Raised by `exec` for an instruction without a meaning; no arm does. Safe. -/
  | notModelled (mnemonic : String)
  /-- Raised when an offered request has BHE AD0 = 1 1 (R79, U2). Safe. -/
  | noByteSelected
  /-- Raised by a word access at FFFFFH, whole or by its first cycle, or in what `int_entry` reads (R60,
  R154, U9; log entries 15, 32). Safe. -/
  | wordAtTopOfMemory
  /-- Raised by a write cycle at T4 on an address that tags a queued byte (R57, U10). Safe. -/
  | writeToQueuedInstruction
  /-- Raised when an interrupt is requested while WAIT waits and the parameter is at its default
  (R174, U11). Safe. -/
  | interruptDuringWait
  /-- Raised when a response begins and no `int_entry` is supplied (R189, U14). Safe. -/
  | interruptEntryUnmodelled
  /-- Raised when the level on MN/MX is not the strapped one (R112, U17). Safe. -/
  | modeChanged
  /-- Raised when EU offers a request that is no fetch while WAIT waits (R101, R175). Safe. -/
  | dataRequestDuringWait
  /-- Raised when the first request EU offers after RESET is not the fetch at FFFF0H (R212). Safe. -/
  | firstRequestNotResetFetch
  /-- Raised when EU offers a fetch of a transfer type `fetch_kind` excludes (R158). Safe. -/
  | fetchKindExcluded
  /-- Raised when a fetch completes and its bytes do not fit the queue's `QUEUE_LEN` (R19). Safe. -/
  | queueOverflow
  /-- Raised by an I/O request, and by an I/O transfer, whose port address is none of the
  `IO_ADDR_BITS` bits on AD15~AD0 with A19~A16 = 0000 (R41, log entry 11). Safe. -/
  | noSuchPort
  deriving DecidableEq, Repr

/-- The machine state. The comment at each field names the rule of the spec, or says that the
field is the model's own. -/
structure State where
  /-- The parameters (00, section 4); no step writes them. -/
  params : Params
  /-- `x[FLAGS]`, `x[IP]`, `x[CS]`, `x[DS]`, `x[SS]`, `x[ES]` (R11). -/
  regs : Regs
  /-- `σ.queue` (R19), oldest byte first. -/
  queue : List QByte
  /-- `σ.bus.t` and `σ.bus.cyc` (R20, R21). -/
  bus : Bus
  /-- `rdata` of the cycle record (R21), filled at T4 and kept until the next read's T4. -/
  rdata : Word
  /-- `σ.nmi_prev` (R22). -/
  nmiPrev : Bool
  /-- `σ.nmi_pending` (R22). -/
  nmiPending : Bool
  /-- `σ.intr_accept` (R23). -/
  intrAccept : Bool
  /-- `σ.waiting` (R23). -/
  waiting : Bool
  /-- `σ.in_reset` (R23). -/
  inReset : Bool
  /-- `σ.latch` (R26). -/
  latch : Latch
  /-- `σ.Mem` (R27). -/
  mem : Memory
  /-- `σ.IO` (R27). -/
  io : Memory
  /-- Whose move is next (R101, R182, R183: EU acts at instruction boundaries). -/
  turn : Turn
  /-- Requests EU has still to offer, first to be offered first (R53, R189). -/
  pending : List Request
  /-- The data `d` of odd-address words of which EU has read the first half (R154, R155). -/
  halves : List Half
  /-- What EU received last (R100). -/
  received : Received
  /-- The responses in progress, innermost first; true if it interrupted a WAIT (R174, R191). -/
  nest : List Bool
  /-- EU has ended an instruction and a response is due, but bus cycles of the instruction have not
  run to their T4 (R190). -/
  responseDue : Bool
  /-- EU is in the execution of an instruction: it has begun one, and neither its last clock has been
  marked nor a response begun (R181; log entry 8). -/
  executing : Bool
  /-- What the coming acknowledge cycles read, as `int_entry` gave it (R159, D41); past its end, free. -/
  acks : List Word
  /-- The fetch at FFFF0H is still to come (R212). -/
  firstFetchDue : Bool
  /-- The T states of this wait since TEST was last examined (R172). -/
  sinceSample : Nat
  /-- The events raised, newest first (R5: `raise` "records"). -/
  events : List Event
  /-- The number of T states consumed (R90). -/
  clock : Nat
  /-- The inputs of the coming T states (R24); past its end they are free. -/
  script : List TInput
  /-- What EU does at its coming instruction beginnings; past its end, free. -/
  program : List EuAction
  deriving DecidableEq, Repr

/-- The machine right after RESET (R28, R29), RESET having been high (`inReset`). The values the
spec does not state are named in log entries 1 to 5 and in INVENTORY.md. -/
def State.reset : State :=
  { params := Params.standard
    regs := Regs.atReset
    queue := []
    bus := .idle
    rdata := 0
    nmiPrev := false
    nmiPending := false
    intrAccept := false
    waiting := false
    inReset := true
    latch := { addr := 0, bhe := false }
    mem := []
    io := []
    turn := .bus
    pending := []
    halves := []
    received := .nothing
    nest := []
    responseDue := false
    executing := false
    acks := []
    firstFetchDue := true
    sinceSample := 0
    events := []
    clock := 0
    script := []
    program := [] }

end Sys2Proof.Machine
end

