-- ==== Sys2Proof/Machine/Operands.lean ====
section
/-!
DEFINITION. The operand forms: the fields of a bus request (R21), its lanes (R42, R73, R76), the
segment code (R74), the forming of an address (R52), the fetch and reset requests (R158, R212),
the splitting of an access into bus cycles (R53, R150), and
what the parameters say (R90, R41, R49).
-/

namespace Sys2Proof

/-- The field `space` of a cycle (R21). -/
inductive Space where
  | mem
  | io
  | intAck
  deriving DecidableEq, Repr

/-- The field `purpose` of a cycle (R21). -/
inductive Purpose where
  | fetch
  | data
  | ack
  deriving DecidableEq, Repr

/-- `space` (R21). -/
def opSpace : BusOp → Space
  | .fetch | .memRead _ | .memWrite _ _ => .mem
  | .ioRead | .ioWrite _ => .io
  | .intAck => .intAck

/-- `purpose` (R21). -/
def opPurpose : BusOp → Purpose
  | .fetch => .fetch
  | .memRead _ | .memWrite _ _ | .ioRead | .ioWrite _ => .data
  | .intAck => .ack

/-- `seg` (R18): a memory request names its register, a fetch goes through CS (R158), an I/O access
and an interrupt-acknowledge cycle carry the code of CS. -/
def opSeg : BusOp → SegReg
  | .memRead seg | .memWrite seg _ => seg
  | .fetch | .ioRead | .ioWrite _ | .intAck => .cs

/-- `wdata` where `dir` = `Write`; `none` is `dir` = `Read` (R21). -/
def opWdata : BusOp → Option Word
  | .memWrite _ w | .ioWrite w => some w
  | .fetch | .memRead _ | .ioRead | .intAck => none

/-- The operation with other write data; a read has none to replace. -/
def opWithWdata (op : BusOp) (w : Word) : BusOp :=
  match op with
  | .memWrite seg _ => .memWrite seg w
  | .ioWrite _ => .ioWrite w
  | .fetch => .fetch
  | .memRead seg => .memRead seg
  | .ioRead => .ioRead
  | .intAck => .intAck

/-- S4 S3 (R74): 00 ES, 01 SS, 10 CS, 11 DS. -/
def segCode : SegReg → BitVec 2
  | .es => 0b00
  | .ss => 0b01
  | .cs => 0b10
  | .ds => 0b11

/-- The low byte of a word, on AD7~AD0 (R42). -/
def lowByte (w : Word) : Byte := w.extractLsb' 0 8

/-- The high byte of a word, on AD15~AD8 (R42). -/
def highByte (w : Word) : Byte := w.extractLsb' 8 8

/-- The word with high byte `hi` and low byte `lo` (R5, R43). -/
def joinBytes (hi lo : Byte) : Word := hi ++ lo

/-- The address with bit 0 cleared: the byte of the low lane (R53). -/
def evenOf (a : Addr) : Addr := a &&& 0xFFFFE

/-- The address with bit 0 set: the byte of the high lane (R53). -/
def oddOf (a : Addr) : Addr := a ||| 0x00001

/-- The low lane takes part when AD0 = 0 (R42, R73). -/
def Request.low (r : Request) : Bool := !r.addr.getLsbD 0

/-- The high lane takes part when BHE = 0 (R42, R73). -/
def Request.high (r : Request) : Bool := !r.bhe

/-- The instruction a bus cycle executes: its T1 word, with what EU knows of it (R160). -/
def Request.instr (r : Request) : Option Instr :=
  (decodeT1 ⟨r.op, r.half⟩ (t1Word r.bhe r.addr)).toOption

/-- The bytes a write cycle would write, each with its lane: `Effect` of R53. -/
def Request.writes (r : Request) : List (Nat × Addr × Byte) :=
  match opWdata r.op with
  | none => []
  | some w =>
    (if r.low then [(0, evenOf r.addr, lowByte w)] else []) ++
    (if r.high then [(1, oddOf r.addr, highByte w)] else [])

/-- `addr = (zext_20(x[seg]) * 16 + zext_20(offset)) mod 2^20` (R52, GK3). -/
def physAddr (seg offset : Word) : Addr := seg.zeroExtend 20 * 16 + offset.zeroExtend 20

/-- The first request after RESET: a fetch at FFFF0H, with `bhe` by `fetch_kind` (R212). -/
def Request.isResetFetch (r : Request) : Bool :=
  r.op == .fetch && r.addr == 0xFFFF0

/-- The default fetch request at an even address: XFER.W.EVEN (R158). -/
def Request.wordFetch (a : Addr) : Request := ⟨a, false, none, .fetch⟩

/-- Whether `fetch_kind` lets EU offer this request: by default a fetch is XFER.W.EVEN at an even
address and XFER.B.ODD at an odd one; under `open` any row (R158). -/
def Request.fetchKindOk (r : Request) (k : FetchKind) : Bool :=
  match r.op, k with
  | .fetch, .standard => !r.bhe && !(r.addr.getLsbD 0 && r.half.isSome)
  | .fetch, .anyRow => true
  | .memRead _, _ | .memWrite _ _, _ | .ioRead, _ | .ioWrite _, _ | .intAck, _ => true

/-- Whether the cycle is the first half of the word at FFFFFH (R60, R154). A second half may be at
any even address: EU "computes both 20-bit addresses, and the spec puts no rule on it" (D12). -/
def Request.halfOfTopWord (r : Request) : Bool :=
  r.half.isSome && r.addr == 0xFFFFF && !r.bhe

/-- How many ports there are: a port address has `IO_ADDR_BITS` bits, "carried on AD15~AD0 in T1 with
A19~A16 = 0000" (R41), so 16 at most. -/
def Params.portCount (p : Params) : Nat := 2 ^ min p.ioAddrBits 16

/-- The bus requests of an access (R53, R150); `none` for a word at FFFFFH (R60). The datum's bytes
go to the lanes they travel on; the other lane of `wdata` is never used. -/
def Access.requests (x : Access) : Option (List Request) :=
  let v := (opWdata x.op).getD 0
  let onLow (b : Byte) := opWithWdata x.op (joinBytes 0 b)
  let onHigh (b : Byte) := opWithWdata x.op (joinBytes b 0)
  match x.wide, x.addr.getLsbD 0 with
  | false, false => some [⟨x.addr, true, none, onLow (lowByte v)⟩]
  | false, true => some [⟨x.addr, false, none, onHigh (lowByte v)⟩]
  | true, false => some [⟨x.addr, false, none, x.op⟩]
  | true, true =>
    if x.addr = 0xFFFFF then none
    else some [⟨x.addr, false, some x.datum, onHigh (lowByte v)⟩,
               ⟨x.addr + 1, true, some x.datum, onLow (highByte v)⟩]

/-- The time that `n` T states take, `T = 1 / f_clk` each (R90, R220). DESIGN CHOICE (log entry 31):
in whole nanoseconds, rounded down, and 0 for `f_clk` = 0; the spec gives no unit of resolution. -/
def Params.nanoseconds (p : Params) (n : Nat) : Nat := n * 1000000000 / p.fClk

/-- The platform has plain storage behind the port (R49). -/
def Params.storagePort (p : Params) (port : Nat) : Bool :=
  p.ioStorage.any fun r => decide (r.base ≤ port) && decide (port < r.base + r.size)

end Sys2Proof

namespace Sys2Proof.Machine

/-- A segment register's contents (R17). -/
def Regs.seg (g : Regs) : SegReg → Word
  | .es => g.es
  | .ss => g.ss
  | .cs => g.cs
  | .ds => g.ds

/-- "used only to check a request of EU against the registers" (R52): the request's address is
formed with its segment register and `offset`. -/
def Regs.forms (g : Regs) (r : Request) (offset : Word) : Bool :=
  r.addr == physAddr (g.seg (opSeg r.op)) offset

end Sys2Proof.Machine
end

