-- ==== Sys2Proof/Machine/Flags.lean ====
section
/-!
DEFINITION. FLAGS and its one interpreted bit (R14, R15). No instruction of the opcode table
writes a flag (R151 to R155: "flags written (none in this family)"; R170: "Flags written: none").
-/

namespace Sys2Proof.Machine

/-- The interrupt-enable flag: bit 9 of FLAGS (R15; the position is GK17, PRESUMED, log entry 6). -/
def Regs.ifFlag (g : Regs) : Bool := g.flags.getLsbD 9

/-- INTR is accepted only when IF = 1 (R184). -/
def State.intrAllowed (s : State) (intr : Bool) : Bool := intr && s.regs.ifFlag

end Sys2Proof.Machine
end

