-- ==== Sys2Proof/Machine/Ops.lean ====
section
/-!
DEFINITION. The shared operations over memory, registers and queue; the read and the write of a
bus cycle at T4 (R53, R100); entering and leaving the wait state (R170); taking an interrupt and
returning from one (R189, R191, R174); and RESET (R211, R214).
-/

namespace Sys2Proof.Machine

/-- The outcome of a machine operation. -/
abbrev Out := Host.Outcome State Fault Refusal

/-- Go on from a next state; a fault or a refusal stays. -/
def Out.andThen (o : Out) (f : State → Out) : Out :=
  match o with
  | .next s => f s
  | .fault r => .fault r
  | .refused r => .refused r

/-! ### Memory -/

/-- The byte at an address; an unlisted address reads as `Config.unwrittenByte`. -/
def Memory.read : Memory → Nat → Byte
  | [], _ => Config.unwrittenByte
  | (b, v) :: m, a => if a = b then v else Memory.read m a

/-- Store a byte, keeping the canonical form: rising addresses, and no entry equal to what an
unlisted address reads as. -/
def Memory.write : Memory → Nat → Byte → Memory
  | [], a, v => if v = Config.unwrittenByte then [] else [(a, v)]
  | (b, w) :: m, a, v =>
    if a < b then
      if v = Config.unwrittenByte then (b, w) :: m else (a, v) :: (b, w) :: m
    else if a = b then
      if v = Config.unwrittenByte then m else (a, v) :: m
    else (b, w) :: Memory.write m a v

/-- Every entry's address is above `lo` and the addresses rise; no entry holds the default. -/
def Memory.wfAbove (lo : Nat) : Memory → Bool
  | [] => true
  | (b, v) :: m => decide (lo ≤ b) && v != Config.unwrittenByte && Memory.wfAbove (b + 1) m

/-- The canonical form of a memory. -/
def Memory.wf (m : Memory) : Bool := Memory.wfAbove 0 m

/-- Store several bytes, first to last. -/
def Memory.writeAll (m : Memory) (cells : List (Addr × Byte)) : Memory :=
  cells.foldl (fun m c => m.write c.1.toNat c.2) m

/-! ### Registers -/

/-- Write one of the internal registers (R11). -/
def Regs.write (g : Regs) (r : Reg) (v : Word) : Regs :=
  match r with
  | .flags => { g with flags := v }
  | .ip => { g with ip := v }
  | .cs => { g with cs := v }
  | .ds => { g with ds := v }
  | .ss => { g with ss := v }
  | .es => { g with es := v }

/-- Read one of the internal registers (R11). -/
def Regs.read (g : Regs) : Reg → Word
  | .flags => g.flags
  | .ip => g.ip
  | .cs => g.cs
  | .ds => g.ds
  | .ss => g.ss
  | .es => g.es

/-- Register writes of EU or of `int_entry`, first to last (R14, R189). -/
def Regs.writeAll (g : Regs) (ws : List (Reg × Word)) : Regs :=
  ws.foldl (fun g w => g.write w.1 w.2) g

/-! ### Inputs -/

/-- The inputs of the coming T state: the script's first entry, or free ones (R24, R21). -/
def State.input (s : State) : TInput :=
  match s.script with
  | i :: _ => i
  | [] => { env := Config.freeEnv s.clock, eu := Config.freeEu s.clock }

/-- What EU does where it begins an instruction: the program's first entry, or a free one. -/
def State.action (s : State) : EuAction :=
  match s.program with
  | a :: _ => a
  | [] => Config.freeAction s.clock

/-- One T state is over: its inputs are used up and the count of T states rises (R90). -/
def State.tick (s : State) : State :=
  { s with script := s.script.tail, clock := s.clock + 1 }

/-- The level of the strap that selects the mode: high is minimum mode (R112). -/
def modeLevel : Mode → Bool
  | .min => true
  | .max => false

/-! ### The two halves of a bus cycle's effect at T4 -/

/-- The port exists (R41). Memory has all 2^20 addresses (R40). -/
def State.reachable (s : State) (op : BusOp) (a : Addr) : Bool :=
  match opSpace op with
  | .io => decide (a.toNat < s.params.portCount)
  | .mem | .intAck => true

/-- The byte that memory, a port or an interrupt-acknowledge cycle puts on its lane in T4: the
stored byte (R53); a port without storage gives any byte (R49), an acknowledge cycle what `int_entry`
gave for it, or else any byte (R159, D41). -/
def State.busByte (s : State) (op : BusOp) (a : Addr) : Byte :=
  match opSpace op with
  | .mem => s.mem.read a.toNat
  | .io =>
    if s.params.storagePort a.toNat then s.io.read a.toNat
    else Config.freePortByte s.clock a.toNat
  | .intAck =>
    match s.acks with
    | w :: _ => if a.getLsbD 0 then highByte w else lowByte w
    | [] => Config.freeAckByte s.clock a.toNat

/-- The address tags a byte of the instruction queue (R57). -/
def State.queued (s : State) (a : Addr) : Bool := s.queue.any fun q => q.addr == a

/-- The write of a bus cycle at T4: every byte at once (R48, R100). A write to the address of a
queued byte is refused (R57), and so is a port that does not exist (R41, R187). -/
def State.busWrite (s : State) (op : BusOp) (cells : List (Addr × Byte)) : Out :=
  match opSpace op with
  | .mem =>
    if cells.any fun c => s.queued c.1 then .refused .writeToQueuedInstruction
    else .next { s with mem := s.mem.writeAll cells }
  | .io =>
    if cells.all fun c => s.reachable op c.1 then .next { s with io := s.io.writeAll cells }
    else .refused .noSuchPort
  | .intAck => .next s

/-- What a read gives EU: a byte, a word, or one half of the odd-address word `d` (R151 to R155). -/
inductive Delivery where
  | byte (b : Byte)
  | word (w : Word)
  | lowHalf (d : DatumId) (b : Byte)
  | highHalf (d : DatumId) (b : Byte)
  deriving DecidableEq, Repr

/-- `d[7:0]` of the datum `d` (R154); a free byte if its first half was not read. -/
def State.lowOf (s : State) (d : DatumId) : Byte :=
  match s.halves.find? fun h => h.datum == d with
  | some h => h.low
  | none => Config.freeHalfByte s.clock d

/-- The halves of the other data. -/
def State.otherHalves (s : State) (d : DatumId) : List Half :=
  s.halves.filter fun h => h.datum != d

/-- EU takes what a read delivers. The first half of an odd-address word is `d[7:0]` (R154); the
second is `d[15:8]` and completes the word (R155). Bytes are not extended (R76). -/
def State.receive (s : State) : Delivery → State
  | .byte b => { s with received := .byte b }
  | .word w => { s with received := .word w }
  | .lowHalf d b => { s with halves := ⟨d, b⟩ :: s.otherHalves d }
  | .highHalf d b =>
    { s with halves := s.otherHalves d
             received := .word (joinBytes b (s.lowOf d)) }

/-- The read of a bus cycle at T4, of the bytes `bytes` on the selected lanes: `r` is the data bus
with both lanes. A fetch appends its bytes to the queue with their addresses (R158), within
`QUEUE_LEN` (R19); any other read delivers `d` to EU (R100), and an acknowledge cycle uses up the data
that `int_entry` gave for it (R159). -/
def State.busRead (s : State) (op : BusOp) (bytes : List QByte) (r : Word) (d : Delivery) : Out :=
  if bytes.all fun q => s.reachable op q.addr then
    match opPurpose op with
    | .fetch =>
      if s.queue.length + bytes.length ≤ s.params.queueLen then
        .next { s with rdata := r, queue := s.queue ++ bytes }
      else .refused .queueOverflow
    | .data => .next ({ s with rdata := r }.receive d)
    | .ack => .next ({ s with rdata := r, acks := s.acks.tail }.receive d)
  else .refused .noSuchPort

/-! ### The wait state of WAIT -/

/-- The CPU enters the waiting state (R170). -/
def State.beginWait (s : State) : State := { s with waiting := true, sinceSample := 0 }

/-- `TestSampled`: a free draw, under the law that one of any `TEST_POLL_MAX` consecutive T states
of a wait is a sampling state (R172). -/
def State.testSampled (s : State) : Bool :=
  decide (s.params.testPollMax ≤ s.sinceSample + 1) || Config.freeSample s.clock

/-! ### Taking an interrupt, and returning from one -/

/-- The event of a response (R189). -/
def intEvent : IntKind → Event
  | .nmi => .nmiResponse
  | .intr => .intrResponse

/-- The response consumes its request (R182, R183). -/
def State.consumeRequest (s : State) : IntKind → State
  | .nmi => { s with nmiPending := false }
  | .intr => { s with intrAccept := false }

/-- The word in memory at `a` (R43); `none` at FFFFFH, which the model refuses and where it "does not
wrap `a + 1` past 2^20" (R60, D12). -/
def Memory.readWord (m : Memory) (a : Addr) : Option Word :=
  if a = 0xFFFFF then none else some (joinBytes (m.read (a + 1).toNat) (m.read a.toNat))

/-- All the values, if there are all. -/
def allSome {α : Type} : List (Option α) → Option (List α)
  | [] => some []
  | x :: xs =>
    match x, allSome xs with
    | some v, some vs => some (v :: vs)
    | _, _ => none

/-- An operation on two values, if there are both. -/
def bothSome (f : Word → Word → Word) (x y : Option Word) : Option Word :=
  match x, y with
  | some v, some w => some (f v w)
  | _, _ => none

/-- The value of an expression in the state `σ` at the event (R189); `none` if it reads the word at
FFFFFH. That such a read is refused as a bus access of that word is (R60) is log entry 32. -/
def evalEntry (s : State) : EntryExpr → Option Word
  | .lit w => some w
  | .reg r => some (s.regs.read r)
  | .mem seg off =>
    match evalEntry s seg, evalEntry s off with
    | some v, some w => s.mem.readWord (physAddr v w)
    | _, _ => none
  | .add x y => bothSome (· + ·) (evalEntry s x) (evalEntry s y)
  | .sub x y => bothSome (· - ·) (evalEntry s x) (evalEntry s y)
  | .and x y => bothSome (· &&& ·) (evalEntry s x) (evalEntry s y)
  | .or x y => bothSome (· ||| ·) (evalEntry s x) (evalEntry s y)

/-- The bus requests of an access of a response, with its address formed (R52), its datum filled in and
its cycles in order (R53); `none` if it, or an expression of it, is a word at FFFFFH (R60). -/
def entryRequests (s : State) (x : EntryAccess) : Option (List Request) :=
  match evalEntry s x.seg, evalEntry s x.off, evalEntry s x.data with
  | some seg, some off, some data =>
    Access.requests ⟨physAddr seg off, x.wide, opWithWdata x.op data, x.datum⟩
  | _, _, _ => none

/-- A response that depends on the state `σ` at the event (R189): its register changes, and the bus
requests of its accesses, first to last. -/
def entryFormResponse (s : State) (f : EntryForm) : Option IntResponse :=
  match allSome (f.writes.map fun w => (evalEntry s w.2).map fun v => (w.1, v)),
    allSome (f.accesses.map (entryRequests s)), allSome (f.acks.map (evalEntry s)) with
  | some writes, some requests, some acks => some ⟨writes, requests.flatten, acks⟩
  | _, _, _ => none

/-- The value of `int_entry(kind, σ)` (R189); `none` if it reads or accesses the word at FFFFFH (R60). -/
def entryResponse (e : IntEntry) (k : IntKind) (s : State) : Option IntResponse :=
  match e, k with
  | .fixed nmi _, .nmi => some nmi
  | .fixed _ intr, .intr => some intr
  | .form nmi _, .nmi => entryFormResponse s nmi
  | .form _ intr, .intr => entryFormResponse s intr
  | .free, k => some (Config.freeResponse k s.clock)

/-- The response to an interrupt (R189): raise the event, consume the request, and hand over to
`int_entry`, which changes the registers and gives the bus requests EU will offer and the data of the
acknowledge cycles (R159). Without it the run is refused. A WAIT that the response interrupts is
left, to be executed again on return (R174, `wait_interruptible` = true). -/
def takeInterrupt (k : IntKind) (s : State) : Out :=
  match s.params.intEntry with
  | none => .refused .interruptEntryUnmodelled
  | some e =>
    match entryResponse e k s with
    | none => .refused .wordAtTopOfMemory
    | some resp =>
      .next { s.consumeRequest k with
        regs := s.regs.writeAll resp.writes
        pending := s.pending ++ resp.requests
        acks := resp.acks
        nest := s.waiting :: s.nest
        waiting := false
        executing := false
        events := intEvent k :: s.events }

/-- No bus cycle of the instruction is under way or still to be offered (R190), and none is held in TW,
where interrupts are not answered (R225). A fetch is none of the instruction's own (log entry 34). -/
def State.cyclesDone (s : State) : Bool :=
  s.pending.isEmpty &&
    match s.bus with
    | .idle => true
    | .cycle ph r => opPurpose r.op == .fetch && ph != .tw

/-- The response waits for the bus cycles of the instruction that has ended (R190): the bus takes its
T states. A WAIT goes on waiting and looks for the request again (R174). -/
def State.holdResponse (s : State) : State :=
  { s with responseDue := !s.waiting, intrAccept := s.intrAccept && !s.waiting }

/-- EU returns from the innermost response; a WAIT it had interrupted is executed again (R174).
What is restored is not in the spec (R191): EU's register writes carry it (log entry 19). -/
def returnFromInterrupt (s : State) : State :=
  match s.nest with
  | [] => s
  | true :: outer => { s with nest := outer }.beginWait
  | false :: outer => { s with nest := outer }

/-! ### RESET -/

/-- One byte of an abandoned write: afterwards "either its old or its new value" (R214). -/
def Memory.writeIfTaken (t : Nat) (m : Memory) (c : Nat × Addr × Byte) : Memory :=
  if Config.freeTaken t c.1 then m.write c.2.1.toNat c.2.2 else m

/-- `AbandonCycle` (R214): each byte a write in progress would write is independently taken or
not; a read has no effect. -/
def State.abandonCycle (s : State) : State :=
  match s.bus with
  | .idle => s
  | .cycle _ r =>
    match opSpace r.op with
    | .mem => { s with mem := r.writes.foldl (Memory.writeIfTaken s.clock) s.mem }
    | .io =>
      { s with io := (r.writes.filter fun c => s.reachable r.op c.2.1).foldl
                       (Memory.writeIfTaken s.clock) s.io }
    | .intAck => s

/-- `ResetStep` (R211), for a T state in which RESET is high. The event is raised, and a cycle
abandoned, in the first such T state. -/
def State.resetStep (s : State) (env : Env) : State :=
  let s1 := if s.inReset then s else { s.abandonCycle with events := .reset :: s.events }
  { s1 with
    regs := Regs.atReset
    queue := []
    bus := .idle
    waiting := false
    intrAccept := false
    nmiPending := false
    nmiPrev := env.nmi
    inReset := true
    turn := .bus
    pending := []
    nest := []
    halves := []
    responseDue := false
    executing := false
    acks := []
    firstFetchDue := true
    sinceSample := 0 }

end Sys2Proof.Machine
end

