-- ==== Sys2Proof/Machine/Transfer.lean ====
section
/-!
DEFINITION. The five bus transfers (`42_bus_transfers.md` R151 to R155): the effect of each at T4,
for memory, ports and interrupt-acknowledge cycles alike (R157, R159). None writes a flag or
raises an exception. `r` is `rdata`, `w` is `wdata`; a lane that is not selected carries any byte
on a read and is ignored on a write (R156).
-/

namespace Sys2Proof.Machine

/-- XFER.W.EVEN (R151): `r[7:0] <- M[a]; r[15:8] <- M[a+1]`, or `M[a] <- w[7:0]; M[a+1] <- w[15:8]`. -/
def execXferWEven (a : Addr) (op : BusOp) (s : State) : Out :=
  match opWdata op with
  | some w => s.busWrite op [(a, lowByte w), (a + 1, highByte w)]
  | none =>
    let lo := s.busByte op a
    let hi := s.busByte op (a + 1)
    s.busRead op [⟨a, lo⟩, ⟨a + 1, hi⟩] (joinBytes hi lo) (.word (joinBytes hi lo))

/-- XFER.B.EVEN (R152): `r[7:0] <- M[a]`, or `M[a] <- w[7:0]`; the byte at `a + 1` takes no part. -/
def execXferBEven (a : Addr) (op : BusOp) (s : State) : Out :=
  match opWdata op with
  | some w => s.busWrite op [(a, lowByte w)]
  | none =>
    let b := s.busByte op a
    s.busRead op [⟨a, b⟩] (joinBytes (Config.freeLaneByte s.clock 1) b) (.byte b)

/-- XFER.B.ODD (R153): `r[15:8] <- M[a]`, or `M[a] <- w[15:8]`; the byte at `a - 1` takes no part. -/
def execXferBOdd (a : Addr) (op : BusOp) (s : State) : Out :=
  match opWdata op with
  | some w => s.busWrite op [(a, highByte w)]
  | none =>
    let b := s.busByte op a
    s.busRead op [⟨a, b⟩] (joinBytes b (Config.freeLaneByte s.clock 0)) (.byte b)

/-- XFER.W.ODD.1 (R154): `d[7:0] <- r[15:8] <- M[a]`, or `M[a] <- w[15:8]`. The word at FFFFFH is
refused (R60). -/
def execXferWOdd1 (a : Addr) (h : HalfOp) (s : State) : Out :=
  if a = 0xFFFFF then .refused .wordAtTopOfMemory
  else
    match opWdata h.op with
    | some w => s.busWrite h.op [(a, highByte w)]
    | none =>
      let b := s.busByte h.op a
      s.busRead h.op [⟨a, b⟩] (joinBytes b (Config.freeLaneByte s.clock 0)) (.lowHalf h.datum b)

/-- XFER.W.ODD.2 (R155), `a` being the address on the pins, which EU computes (D12):
`d[15:8] <- r[7:0] <- M[a]`, or `M[a] <- w[7:0]`. -/
def execXferWOdd2 (a : Addr) (h : HalfOp) (s : State) : Out :=
  match opWdata h.op with
  | some w => s.busWrite h.op [(a, lowByte w)]
  | none =>
    let b := s.busByte h.op a
    s.busRead h.op [⟨a, b⟩] (joinBytes (Config.freeLaneByte s.clock 1) b) (.highHalf h.datum b)

end Sys2Proof.Machine
end

