-- ==== Sys2Proof/Machine/Wait.lean ====
section
/-!
DEFINITION. The WAIT instruction (`43_wait_test.md` R170): "EU executes WAIT: σ.waiting <- 1". The
T states of the wait that follows are `State.waitStep` in `Machine/BusCycle.lean`.
-/

namespace Sys2Proof.Machine

/-- WAIT (R170): the CPU enters the waiting state. No flag, no exception. -/
def execWait (s : State) : Out := .next s.beginWait

end Sys2Proof.Machine
end

