-- ==== Sys2Proof/Machine/Dispatch.lean ====
section
/-! DEFINITION. `exec`: one arm per constructor of `Instr`. -/

namespace Sys2Proof.Machine

def exec (i : Instr) (s : State) : Host.Outcome State Fault Refusal :=
  match i with
  | .xferWEven a op => Sys2Proof.Machine.execXferWEven a op s
  | .xferBEven a op => Sys2Proof.Machine.execXferBEven a op s
  | .xferBOdd a op => Sys2Proof.Machine.execXferBOdd a op s
  | .xferWOdd1 a op => Sys2Proof.Machine.execXferWOdd1 a op s
  | .xferWOdd2 a op => Sys2Proof.Machine.execXferWOdd2 a op s
  | .wait => Sys2Proof.Machine.execWait s

end Sys2Proof.Machine
end

