-- ==== Sys2Proof/Machine/BusCycle.lean ====
section
/-!
DEFINITION. Part 4 of `Step` (R101): the bus interface. Which requests are admissible, taking a
request or going idle (R102), the sequence of the T states (R93, R99), and the bus cycle as one
action (R105).
-/

namespace Sys2Proof.Machine

/-- Why an offered request has no meaning, if it has none: `Admissible` of R101, the refused word
at FFFFFH (R154), a port that does not exist (R41), and what the spec says EU never offers (R158,
R212). -/
def State.objection (s : State) (r : Request) : Option Refusal :=
  if r.addr.getLsbD 0 && r.bhe then some .noByteSelected
  else if s.waiting && opPurpose r.op != .fetch then some .dataRequestDuringWait
  else if s.firstFetchDue && !r.isResetFetch then some .firstRequestNotResetFetch
  else if !r.fetchKindOk s.params.fetchKind then some .fetchKindExcluded
  else if r.halfOfTopWord then some .wordAtTopOfMemory
  else if !s.reachable r.op r.addr then some .noSuchPort
  else none

/-- The request EU offers in this T state: one of its own choice, or, if it goes on with what it has
begun, the next request of that. Which, and whether any, is EU's (R4, R101). -/
def State.offered (s : State) (eu : EuIn) : Option Request :=
  match eu.goOn, s.pending with
  | true, r :: _ => some r
  | _, _ => eu.req

/-- The requests left when the offered one is taken. -/
def State.pendingAfter (s : State) (eu : EuIn) : List Request :=
  if eu.goOn then s.pending.tail else s.pending

/-- `StartOrIdle` (R101, R102): the offered request starts its T1, or the bus idles. -/
def State.startOrIdle (s : State) (eu : EuIn) : Out :=
  match s.offered eu with
  | none => .next { s with bus := .idle }
  | some r =>
    match s.objection r with
    | some e => .refused e
    | none =>
      .next { s with bus := .cycle .t1 r, pending := s.pendingAfter eu, firstFetchDue := false }

/-- EU begins an access of one operand, if it does: its bus requests wait to be offered (R53). A
word at FFFFFH is refused (R60). -/
def State.beginAccess (s : State) (eu : EuIn) : Out :=
  match eu.access with
  | none => .next s
  | some x =>
    match x.requests with
    | none => .refused .wordAtTopOfMemory
    | some rs => .next { s with pending := s.pending ++ rs }

/-- `Effect(σ, σ.bus.cyc)` (R53, R100): the cycle's instruction is executed. A code that selects no
byte transfers nothing (R79); no admitted request has it. -/
def State.effect (s : State) (r : Request) : Out :=
  match r.instr with
  | some i => exec i s
  | none => .next s

/-- Part 4 of `Step` (R101): the latch loads in T1 (R98), READY is examined in T3 and TW only
(R99), and the cycle takes effect in T4 (R100), where the next request may start (R102). -/
def State.busStep (s : State) (inp : TInput) : Out :=
  match s.bus with
  | .idle => s.startOrIdle inp.eu
  | .cycle .t1 r =>
    .next { s with latch := { addr := r.addr, bhe := r.bhe }, bus := .cycle .t2 r }
  | .cycle .t2 r => .next { s with bus := .cycle .t3 r }
  | .cycle .t3 r => .next { s with bus := .cycle (if inp.env.ready then .t4 else .tw) r }
  | .cycle .tw r => .next { s with bus := .cycle (if inp.env.ready then .t4 else .tw) r }
  | .cycle .t4 r => (s.effect r).andThen fun s' => s'.startOrIdle inp.eu

/-- `BusCycle` without its T states, for several requests in order: "A model that does not need pin
traces may take BusCycle as its step" (R105). -/
def State.effects (s : State) : List Request → Out
  | [] => .next s
  | r :: rs => (s.effect r).andThen fun s' => s'.effects rs

/-- `MemRead`, `MemWrite`, `IORead`, `IOWrite` as whole accesses (R53, R60). -/
def State.access (s : State) (x : Access) : Out :=
  match x.requests with
  | none => .refused .wordAtTopOfMemory
  | some rs => s.effects rs

end Sys2Proof.Machine
end

