-- ==== Sys2Proof/Machine/Interrupt.lean ====
section
/-!
DEFINITION. The interrupt request pins: what each T state sees of NMI and INTR (R182, R183), the
wait state's share in it (R170, R172, R174), and which request is answered (R188).
-/

namespace Sys2Proof.Machine

/-- Part 2 of `Step` (R101): a rise of NMI is latched (R182); in the last clock of an instruction
INTR is tested with IF (R183, R184). While a response is due EU executes no instruction that could
end. -/
def State.sampleInterrupts (s : State) (inp : TInput) : State :=
  { s with
    nmiPending := s.nmiPending || (!s.nmiPrev && inp.env.nmi)
    nmiPrev := inp.env.nmi
    intrAccept :=
      if inp.eu.instrLastClock && !s.responseDue then s.intrAllowed inp.env.intr else s.intrAccept }

/-- Part 3 of `Step` (R101): a T state of the wait. The check for an interrupt request comes
before TEST is examined (R174); then TEST = 0 in a sampling T state ends the wait (R170, R171,
R172), and EU goes on with the instruction after WAIT. With `wait_interruptible` = true the request is
answered during the wait, EU standing at an instruction boundary (R174); TEST = 0 in the same T state,
if sampled, completes WAIT, so that it is not executed again (R101, part 3; log entry 26). -/
def State.waitStep (s : State) (inp : TInput) : Out :=
  if s.waiting then
    if s.nmiPending || s.intrAllowed inp.env.intr then
      if s.params.waitInterruptible then
        .next { s with
          intrAccept := s.intrAllowed inp.env.intr
          turn := .instrEnd
          waiting := inp.env.test || !s.testSampled
          sinceSample := if s.testSampled then 0 else s.sinceSample + 1 }
      else .refused .interruptDuringWait
    else if !inp.env.test && s.testSampled then
      .next { s with waiting := false, sinceSample := 0, turn := .start, responseDue := false }
    else .next { s with sinceSample := if s.testSampled then 0 else s.sinceSample + 1 }
  else .next s

/-- Which request is answered at the end of an instruction (R182, R183, R188). -/
def State.chosenInterrupt (s : State) : Option IntKind :=
  match s.nmiPending, s.intrAccept with
  | true, true =>
    match s.params.intPriority with
    | .nmiFirst => some .nmi
    | .intrFirst => some .intr
    | .anyOrder => if Config.freeNmiFirst s.clock then some .nmi else some .intr
  | true, false => some .nmi
  | false, true => some .intr
  | false, false => none

end Sys2Proof.Machine
end

