-- ==== Sys2Proof/Machine/Agents.lean ====
section
/-!
DEFINITION. The moves of the two agents. The CPU's bus interface consumes one T state (`tStep`,
the `Step` of R101); `EU` acts between T states, at the end of an instruction or at the beginning
of one (`euStep`, R101: "actions of EU at an instruction boundary").
-/

namespace Sys2Proof.Machine

/-- What EU's execution leaves behind a T state: its register writes (R14), the bytes it takes from
the queue, and where it stands. While WAIT waits EU executes no instruction (R170), so none of it
happens in a T state that the wait has not left before. A response that is due begins once the bus
cycles of its instruction have run (R190); until then EU begins nothing. An input that begins an
instruction while one is in execution is void: the next begins at its end, where an interrupt comes
first (R181; log entry 8). -/
def State.euEffects (s : State) (wasWaiting : Bool) (eu : EuIn) : State :=
  let s1 :=
    if wasWaiting then s
    else { s with regs := s.regs.writeAll eu.writes, queue := s.queue.drop eu.consume }
  { s1 with
    turn :=
      match s1.turn with
      | .instrEnd => .instrEnd
      | t =>
        if s1.waiting then .bus
        else if s1.responseDue then if s1.cyclesDone then .instrEnd else .bus
        else if eu.instrLastClock then .instrEnd
        else if eu.start && !s1.executing then .start
        else t
    responseDue := s1.responseDue && !s1.cyclesDone
    executing := s1.executing && (s1.waiting || s1.responseDue || !eu.instrLastClock) }

/-- RESET is low in this T state: it "has just gone low", or was low (R101, part 1). -/
def State.leaveReset (s : State) : State := { s with inReset := false }

/-- `Step` (R101) on the inputs of one T state. A level on MN/MX other than the strapped one is
refused (R112); RESET overrides everything (R211). -/
def State.tStepOn (s : State) (inp : TInput) : Out :=
  if inp.env.mnmx != modeLevel s.params.mode then .refused .modeChanged
  else if inp.env.reset then .next (s.resetStep inp.env).tick
  else
    Out.andThen ((s.leaveReset.sampleInterrupts inp).waitStep inp) fun s1 =>
    Out.andThen (s1.beginAccess inp.eu) fun s2 =>
    Out.andThen (s2.busStep inp) fun s3 =>
    .next (s3.euEffects s.waiting inp.eu).tick

/-- One T state, with the inputs it has (R101). -/
def tStep (s : State) : Out := s.tStepOn s.input

/-- EU begins an instruction: the one its next byte encodes, if the spec describes it; any other
shows itself only through what EU offers and writes in the T states that follow (R4, R80). While
WAIT waits EU begins none (R170). -/
def State.euAct (s : State) : Out :=
  if s.waiting then .next s
  else
    let s1 := { s with program := s.program.tail, executing := true }
    match s.action with
    | .ret => .next (returnFromInterrupt s1)
    | .instr b =>
      match decodeByte b with
      | .ok i => exec i s1
      | .error _ => .next s1

/-- EU's move between two T states. At the end of an instruction a request that is acceptable is
answered instead of the next instruction (R182, R183), as soon as the instruction's bus cycles have
run (R190). -/
def euStep (s : State) : Out :=
  let s1 := { s with turn := .bus }
  match s.turn with
  | .instrEnd =>
    match s.chosenInterrupt with
    | some k => if s.cyclesDone then takeInterrupt k s1 else .next s1.holdResponse
    | none => s1.euAct
  | .start => s1.euAct
  | .bus => .next s

end Sys2Proof.Machine
end

