-- ==== Sys2Proof/Machine/Step.lean ====
section
/-!
DEFINITION. `step`, and where an instruction is placed for the very next step to run it.
-/

namespace Sys2Proof.Machine

/-- One step: a T state of the bus interface, or EU's move at an instruction boundary. -/
def step (s : State) : Host.Outcome State Fault Refusal :=
  match s.turn with
  | .bus => tStep s
  | .instrEnd | .start => euStep s

/-- An input in which nothing happens: no reset, no request, READY and TEST high, NMI steady. -/
def State.quietInput (s : State) : TInput :=
  { env := { mnmx := modeLevel s.params.mode, reset := false, ready := true
             nmi := s.nmiPrev, intr := false, test := true }
    eu := { goOn := false } }

/-- `s` with an instruction placed where the next step runs it. An instruction byte is EU's next
instruction, at whose beginning EU stands. A transfer is a bus cycle that has reached T4, where it
takes effect (R100), its T1 word on the latch; the T state is a quiet one. RESET has fallen. -/
def State.withFetchWord (s : State) (nbits w : Nat) : State :=
  if nbits = 8 then
    { s with turn := .start, inReset := false, waiting := false
             program := .instr (BitVec.ofNat 8 w) :: s.program }
  else
    let t1 := BitVec.ofNat 21 w
    { s with
      turn := .bus
      inReset := false
      waiting := false
      bus := .cycle .t4 { addr := t1Addr t1, bhe := t1Bhe t1
                          half := bareKnowledge.half, op := bareKnowledge.op }
      latch := { addr := t1Addr t1, bhe := t1Bhe t1 }
      script := s.quietInput :: s.script }

end Sys2Proof.Machine
end

