-- ==== Sys2Proof/Machine/Pins.lean ====
section
/-!
DEFINITION. The pins: the 40-pin package (R70, R83, R112 to R133), and the levels of the output
pins as a function of the state (R25, R134). Pins 24 to 31 get no level: "The model does not
produce or read a level for any of pins 24 to 31" (R135).
-/

namespace Sys2Proof

/-- What the source says of a pin's direction; `unstated` for the mode-dependent pins (R135). -/
inductive PinKind where
  | supply
  | input
  | output
  | outputTri
  | bidirTri
  | unstated
  deriving DecidableEq, Repr

/-- The level or change at which a pin's signal means what its name says, where the source gives
it in words or by a table (R5, R73, R119 to R125). -/
inductive Polarity where
  | low
  | high
  | rising
  | unstated
  deriving DecidableEq, Repr

/-- One pin of the package: its number, its name in minimum and in maximum mode. -/
structure Pin where
  number : Nat
  minName : String
  maxName : String
  kind : PinKind
  active : Polarity
  deriving DecidableEq, Repr

/-- A pin with one name in both modes. -/
def commonPin (n : Nat) (name : String) (k : PinKind) (p : Polarity) : Pin := ⟨n, name, name, k, p⟩

/-- A mode-dependent pin: "names only" (R126 to R133). -/
def modePin (n : Nat) (a b : String) : Pin := ⟨n, a, b, .unstated, .unstated⟩

/-- Pins 1 and 20, 19 and 40: supply and clock (R114, R115). -/
def supplyPins : List Pin :=
  [ commonPin 1 "GND" .supply .unstated, commonPin 20 "GND" .supply .unstated,
    commonPin 40 "VCC" .supply .unstated, commonPin 19 "CLK" .input .unstated ]

/-- The 16 address/data pins and the four address/status pins (R70, R116, R117). -/
def addressPins : List Pin :=
  [ commonPin 39 "AD15" .bidirTri .unstated, commonPin 2 "AD14" .bidirTri .unstated,
    commonPin 3 "AD13" .bidirTri .unstated, commonPin 4 "AD12" .bidirTri .unstated,
    commonPin 5 "AD11" .bidirTri .unstated, commonPin 6 "AD10" .bidirTri .unstated,
    commonPin 7 "AD9" .bidirTri .unstated, commonPin 8 "AD8" .bidirTri .unstated,
    commonPin 9 "AD7" .bidirTri .unstated, commonPin 10 "AD6" .bidirTri .unstated,
    commonPin 11 "AD5" .bidirTri .unstated, commonPin 12 "AD4" .bidirTri .unstated,
    commonPin 13 "AD3" .bidirTri .unstated, commonPin 14 "AD2" .bidirTri .unstated,
    commonPin 15 "AD1" .bidirTri .unstated, commonPin 16 "AD0" .bidirTri .unstated,
    commonPin 35 "A19/S6" .outputTri .unstated, commonPin 36 "A18/S5" .outputTri .unstated,
    commonPin 37 "A17/S4" .outputTri .unstated, commonPin 38 "A16/S3" .outputTri .unstated ]

/-- The eight common control pins (R118 to R125). -/
def commonControlPins : List Pin :=
  [ commonPin 33 "MN/MX" .input .unstated, commonPin 32 "RD" .output .low,
    commonPin 17 "NMI" .input .rising, commonPin 18 "INTR" .input .high,
    commonPin 21 "RESET" .input .high, commonPin 22 "READY" .input .high,
    commonPin 23 "TEST" .input .low, commonPin 34 "BHE/S7" .outputTri .low ]

/-- The eight mode-dependent control pins (R83, R126 to R133). -/
def modeControlPins : List Pin :=
  [ modePin 24 "INTA" "QS1", modePin 25 "ALE" "QS0", modePin 26 "DEN" "S0",
    modePin 27 "DT/R" "S1", modePin 28 "M/IO" "S2", modePin 29 "WR" "LOCK",
    modePin 30 "HLDA" "RQ/GT1", modePin 31 "HOLD" "RQ/GT0" ]

/-- The package (R70, R113). -/
def allPins : List Pin := supplyPins ++ addressPins ++ commonControlPins ++ modeControlPins

/-- The name of a pin in a mode (R70, R83, R118). -/
def pinName (m : Mode) (n : Nat) : Option String :=
  (allPins.find? fun p => p.number == n).map fun p =>
    match m with
    | .min => p.minName
    | .max => p.maxName

/-- The pin of AD`i` (R70): AD15 is pin 39, AD14 to AD0 are pins 2 to 16. -/
def adPin (i : Nat) : Nat := if i = 15 then 39 else 16 - i

/-- A driven level. -/
def Level.ofBool (b : Bool) : Level := if b then .high else .low

/-- The levels in one T state of the pins the source describes (R134). `adCpu` is the CPU's side of
AD0 to AD15, `adBus` what the lines show; they differ in the data phase of a read. -/
structure PinLevels where
  a19s6 : Level
  a18s5 : Level
  a17s4 : Level
  a16s3 : Level
  adCpu : List Level
  adBus : List Level
  bhes7 : Level
  rd : Level
  deriving DecidableEq, Repr

/-- The levels of pins 35, 36, 37, 38, in that order. -/
def PinLevels.status (p : PinLevels) : List Level := [p.a19s6, p.a18s5, p.a17s4, p.a16s3]

/-- The 16 levels of a word on AD0 to AD15, AD0 first (R76). -/
def wordLevels (w : Word) : List Level :=
  (List.range 16).map fun i => Level.ofBool (w.getLsbD i)

/-- A word "sel" (R134): its levels on the selected lanes, and on the other lane the levels `free`
gives by pin. DESIGN CHOICE (log entry 30): R134, R156, U3 and U4 say `any` of that lane, and D38 gives a
tri-state pin 0, 1 or Z where the source fixes no level, so `free` ranges over all three. -/
def selectedLevels (free : Nat → Level) (low high : Bool) (w : Word) : List Level :=
  (List.range 16).map fun i =>
    if (if i < 8 then low else high) then Level.ofBool (w.getLsbD i) else free (adPin i)

/-- Any level, 0, 1 or Z, on AD0 to AD15 (U4, U5), as `free` gives it by pin. -/
def freeAdLevels (free : Nat → Level) : List Level := (List.range 16).map fun i => free (adPin i)

namespace Machine

/-- The data bus in T4 of a read: the bytes that memory or the ports put on the lanes (R53, R103). -/
def State.busWord (s : State) (r : Request) : Word :=
  joinBytes (s.busByte r.op (oddOf r.addr)) (s.busByte r.op (evenOf r.addr))

/-- Levels in `TI`, and while RESET is high (R102, R134): any on the tri-state pins. The lines may show
what something else drives on them. -/
def freePins (t : Nat) (rd : Level) : PinLevels :=
  { a19s6 := Config.freeLevel t 35
    a18s5 := Config.freeLevel t 36
    a17s4 := Config.freeLevel t 37
    a16s3 := Config.freeLevel t 38
    adCpu := freeAdLevels (Config.freeLevel t)
    adBus := freeAdLevels (Config.freeLine t)
    bhes7 := Config.freeLevel t 34
    rd := rd }

/-- T1, the address format (R71, R94); RD is high (R103). -/
def addressPhasePins (r : Request) : PinLevels :=
  { a19s6 := Level.ofBool (r.addr.getLsbD 19)
    a18s5 := Level.ofBool (r.addr.getLsbD 18)
    a17s4 := Level.ofBool (r.addr.getLsbD 17)
    a16s3 := Level.ofBool (r.addr.getLsbD 16)
    adCpu := wordLevels (r.addr.extractLsb' 0 16)
    adBus := wordLevels (r.addr.extractLsb' 0 16)
    bhes7 := Level.ofBool r.bhe
    rd := .high }

/-- T2, T3, TW and T4, the data and status format (R72, R95, R97): S6 = 0, S5 = IF, S4 S3 = `seg`,
S7 any; the data bus driven by the CPU in a write (R104) and not in a read (R103); RD low in T2, T3
and TW of a read. -/
def State.dataPhasePins (s : State) (ph : Phase) (r : Request) : PinLevels :=
  { a19s6 := .low
    a18s5 := Level.ofBool s.regs.ifFlag
    a17s4 := Level.ofBool ((segCode (opSeg r.op)).getLsbD 1)
    a16s3 := Level.ofBool ((segCode (opSeg r.op)).getLsbD 0)
    adCpu :=
      match opWdata r.op with
      | some w => selectedLevels (Config.freeLevel s.clock) r.low r.high w
      | none => List.replicate 16 .z
    adBus :=
      match opWdata r.op, ph with
      | some w, _ => selectedLevels (Config.freeLine s.clock) r.low r.high w
      | none, .t4 => selectedLevels (Config.freeLine s.clock) r.low r.high (s.busWord r)
      | none, _ => freeAdLevels (Config.freeLine s.clock)
    bhes7 := Level.ofBool (Config.freeBit s.clock 34)
    rd :=
      match opWdata r.op, ph with
      | some _, _ => .high
      | none, .t4 => .high
      | none, _ => .low }

/-- The levels of the pins in the coming T state (R134). While RESET is high RD is `any({0, 1})` (R30,
D32, U5); outside it RD is 1 in every TI (R102, R103, D19; log entry 33). -/
def State.pins (s : State) : PinLevels :=
  if s.input.env.reset then freePins s.clock (Level.ofBool (Config.freeBit s.clock 32))
  else
    match s.bus with
    | .idle => freePins s.clock .high
    | .cycle .t1 r => addressPhasePins r
    | .cycle ph r => s.dataPhasePins ph r

end Machine

end Sys2Proof
end

