-- ==== Sys2Proof/Safety.lean ====
section
/-!
DEFINITION. The terms in which claims are made: runs, the invariant of the machine, the order of
the T states, and the inputs a claim of progress must assume (R225).
-/

namespace Sys2Proof.Machine

/-- A bus cycle's code selects at least one byte (R73, R79). -/
def Request.selects (r : Request) : Bool := !(r.addr.getLsbD 0 && r.bhe)

/-- The latch holds the address and BHE of the cycle in progress from T2 to T4 (R98). -/
def State.latchHolds (s : State) : Bool :=
  match s.bus with
  | .idle => true
  | .cycle .t1 _ => true
  | .cycle _ r => s.latch == { addr := r.addr, bhe := r.bhe }

/-- The bus cycle in progress, if any, has a code of R73 and a transfer type `fetch_kind` allows, is no
half of the word at FFFFFH, and addresses a port that exists if it is an I/O cycle (R41). -/
def State.cycleLegal (s : State) : Bool :=
  match s.bus with
  | .idle => true
  | .cycle _ r => Request.selects r && r.fetchKindOk s.params.fetchKind && !r.halfOfTopWord &&
      s.reachable r.op r.addr

/-- While RESET has not fallen the CPU is in the reset state (R211, R213). -/
def State.resetHolds (s : State) : Bool :=
  !s.inReset ||
    (s.regs == Regs.atReset && s.queue.isEmpty && s.bus == .idle && !s.waiting &&
      !s.intrAccept && !s.nmiPending && !s.responseDue && !s.executing && s.firstFetchDue && s.turn == .bus)

/-- The law of `TestSampled`: in a wait fewer than `TEST_POLL_MAX` T states have passed since a
sampling one (R172). -/
def State.pollBound (s : State) : Bool :=
  !s.waiting || decide (s.sinceSample < max 1 s.params.testPollMax)

/-- While WAIT waits EU stands at an instruction boundary only to answer an interrupt, which
`wait_interruptible` must allow (R170, R174). -/
def State.waitHolds (s : State) : Bool :=
  !s.waiting || s.turn == .bus || s.params.waitInterruptible

/-- EU begins no instruction with an NMI pending but the first after RESET or after a response: any other
begins at the end of one, where NMI is answered first (R181, R215). -/
def State.startHolds (s : State) : Bool :=
  !(s.turn == .start && s.nmiPending && s.executing)

/-- The invariant of the machine: memories in canonical form (R27), the queue within `QUEUE_LEN`
(R19), a legal cycle on the bus (R73, R41), the latch (R98), the reset state (R213), the law of TEST
(R172), no boundary in a wait (R170), none passed by with an NMI pending (R181). -/
structure State.Inv (s : State) : Prop where
  memory : Memory.wf s.mem = true
  ports : Memory.wf s.io = true
  queue : s.queue.length ≤ s.params.queueLen
  cycle : s.cycleLegal = true
  latch : s.latchHolds = true
  reset : s.resetHolds = true
  poll : s.pollBound = true
  wait : s.waitHolds = true
  start : s.startHolds = true

/-- The six values of `σ.bus.t` (R20). -/
inductive TState where
  | ti
  | t1
  | t2
  | t3
  | tw
  | t4
  deriving DecidableEq, Repr

/-- `σ.bus.t` (R20). -/
def Bus.t : Bus → TState
  | .idle => .ti
  | .cycle .t1 _ => .t1
  | .cycle .t2 _ => .t2
  | .cycle .t3 _ => .t3
  | .cycle .tw _ => .tw
  | .cycle .t4 _ => .t4

/-- What may follow a T state that RESET does not cut short: `T1 T2 T3 TW* T4` (R93), and T1 or TI
after TI and T4 (R102). -/
def TState.mayPrecede : TState → TState → Bool
  | .ti, .ti | .ti, .t1 => true
  | .t1, .t2 => true
  | .t2, .t3 => true
  | .t3, .tw | .t3, .t4 => true
  | .tw, .tw | .tw, .t4 => true
  | .t4, .t1 | .t4, .ti => true
  | _, _ => false

/-- Inputs under which EU neither reaches an instruction boundary nor begins an access, RESET is low
and the strap is as the mode has it. READY, NMI, INTR, TEST, the offered request and EU's register
writes are arbitrary. -/
def calm (p : Params) (i : TInput) : Bool :=
  i.env.mnmx == modeLevel p.mode && !i.env.reset && !i.eu.instrLastClock && !i.eu.start &&
    i.eu.access.isNone

/-- Calm inputs of a wait in which nothing but TEST = 0 can happen: no request of either interrupt
(NMI steady at `nmi`), and nothing offered. -/
def testLow (p : Params) (nmi : Bool) (i : TInput) : Bool :=
  calm p i && !i.env.test && i.env.nmi == nmi && !i.env.intr && i.eu.req.isNone

/-- State number `n` belongs to a run of `len` steps; `none` is a run without an end. -/
def InRun (len : Option Nat) (n : Nat) : Prop := ∀ l, len = some l → n ≤ l

/-- "A run is a finite or infinite sequence of Steps" (R224): every step gives the next state. -/
def IsRun (len : Option Nat) (ρ : Nat → State) : Prop :=
  ∀ n, InRun len (n + 1) → step (ρ n) = .next (ρ (n + 1))

/-- The coming step is a T state in which RESET is high. -/
def State.resetting (s : State) : Prop := s.turn = .bus ∧ s.input.env.reset = true

/-- The coming step is a T state in which READY is examined, T3 or TW, and is 1 (R99). -/
def State.findsReady (s : State) : Prop :=
  s.turn = .bus ∧ (s.bus.t = .t3 ∨ s.bus.t = .tw) ∧ s.input.env.ready = true

/-- `ReadyFair` (R225): "in every bus cycle READY is 1 in some T state from T3 on", unless RESET ends the
cycle. No cycle ends before such a T state, so the first one to come is one of the same cycle. -/
def ReadyFair (len : Option Nat) (ρ : Nat → State) : Prop :=
  ∀ n ph r, InRun len n → (ρ n).bus = .cycle ph r → ph ≠ .t4 →
    ∃ m, n ≤ m ∧ InRun len (m + 1) ∧ ((ρ m).resetting ∨ (ρ m).findsReady)

/-- `TestFair` (R225): "during every wait TEST is 0 for `TEST_POLL_MAX` consecutive T states", unless the
wait ends before: the T states from state `m` to state `e`, told by `clock`. -/
def TestFair (len : Option Nat) (ρ : Nat → State) : Prop :=
  ∀ n, InRun len n → (ρ n).waiting = true →
    ∃ m e, n ≤ m ∧ m ≤ e ∧ InRun len e ∧ ((ρ m).waiting = false ∨
      ((ρ e).clock = (ρ m).clock + max 1 (ρ m).params.testPollMax ∧
        ∀ j, m ≤ j → j < e → (ρ j).turn = .bus → (ρ j).input.env.test = false))

/-- The first T state's inputs with one level replaced: what a claim that a pin is not read says
(R99, R121, R124). -/
def State.withReady (s : State) (b : Bool) : State :=
  { s with script := { s.input with env := { s.input.env with ready := b } } :: s.script.tail }

/-- As `withReady`, for INTR. -/
def State.withIntr (s : State) (b : Bool) : State :=
  { s with script := { s.input with env := { s.input.env with intr := b } } :: s.script.tail }

/-- As `withReady`, for TEST. -/
def State.withTest (s : State) (b : Bool) : State :=
  { s with script := { s.input with env := { s.input.env with test := b } } :: s.script.tail }

end Sys2Proof.Machine
end

