-- ==== Sys2Proof/Certificates/Slice0/Obligations.lean ====
section
/-!
DEFINITION. The statements for the provers. Each docstring names the rule of the spec it rests on;
where a clause is the model's own choice it says so and names the log entry.
-/

open Sys2Proof Sys2Proof.Machine

/-! ### Encoding -/

/-- Words written out from R73, R81 and R84 decode to the instruction they stand for, with the
address on A19..A0; the code BHE AD0 = 1 1 (R79) and a byte that is not WAIT's decode to nothing. What a
bare table word stands for, a data read through DS that is no half of a word, is the model's choice
(log entry 14), and the byte 9BH is GK6, presumed (log entry 24). -/
def Obligations.WordsOfTheTableDecode : Prop :=
  decodeTableWord 24 0x0FFFF0 = some (.xferWEven 0xFFFF0 (.memRead .ds)) ∧
  decodeTableWord 24 0x100102 = some (.xferBEven 0x00102 (.memRead .ds)) ∧
  decodeTableWord 24 0x000101 = some (.xferBOdd 0x00101 (.memRead .ds)) ∧
  decode ⟨.memRead .ss, some 7⟩ (.t1 0x000101) = .ok (.xferWOdd1 0x00101 ⟨.memRead .ss, 7⟩) ∧
  decode ⟨.memRead .ss, some 7⟩ (.t1 0x100102) = .ok (.xferWOdd2 0x00102 ⟨.memRead .ss, 7⟩) ∧
  decodeTableWord 8 0x9B = some .wait ∧
  decodeTableWord 24 0x100101 = none ∧
  decodeTableWord 8 0x90 = none

/-- Decoding the code of a well-formed instruction, with what EU knows of it, gives it back: every
row, every address, every operation (R73, R81, R84; R160 for what EU knows). -/
def Obligations.DecodeOfEncodeIsTheInstruction : Prop :=
  ∀ i : Instr, i.wellFormed = true → decode i.known (encode i) = .ok i

/-- What decodes has the code it was decoded from, and a transfer's row is one the observer of the
pins reports. -/
def Obligations.EncodeOfDecodeIsTheCode : Prop :=
  ∀ (k : EuKnows) (c : Code) (i : Instr), decode k c = .ok i →
    encode i = c ∧ ∀ w r, c = .t1 w → i.row? = some r → r ∈ candidates w

/-- R160: from BHE and AD0 an observer tells three cases apart, and reports a pair of candidates
for two of them; only EU knows which it was: each candidate is the row for some knowledge of EU. -/
def Obligations.ObserverTellsThreeCases : Prop :=
  ∀ w : T1Word,
    candidates w =
      (match t1Bhe w, (t1Addr w).getLsbD 0 with
       | false, false => [Row.wEven]
       | true, false => [Row.bEven, Row.wOdd2]
       | false, true => [Row.bOdd, Row.wOdd1]
       | true, true => []) ∧
    ∀ r ∈ candidates w, ∃ k i, decodeT1 k w = .ok i ∧ i.row? = some r

/-- R71: in T1 the 21 pins carry the address and BHE: `addr[19]` to `addr[16]` on pins 35, 36, 37, 38,
`addr[i]` on AD`i`, `bhe` on pin 34. R84: so they carry the T1 word `bhe ++ addr`, whose bits 20 and 0
are the transfer code, selected by the mask 100001H; its two worked words. -/
def Obligations.PinsCarryTheT1Word : Prop :=
  (∀ (s : State) (r : Request), s.bus = .cycle .t1 r → s.input.env.reset = false →
    s.pins.bhes7 = Level.ofBool r.bhe ∧
    s.pins.status = [Level.ofBool (r.addr.getLsbD 19), Level.ofBool (r.addr.getLsbD 18),
      Level.ofBool (r.addr.getLsbD 17), Level.ofBool (r.addr.getLsbD 16)] ∧
    (∀ k, k < 16 → s.pins.adCpu[k]? = some (Level.ofBool (r.addr.getLsbD k))) ∧
    s.pins.adBus = s.pins.adCpu ∧
    (t1Word r.bhe r.addr).getLsbD 20 = r.bhe ∧
    (∀ k, k < 20 → (t1Word r.bhe r.addr).getLsbD k = r.addr.getLsbD k) ∧
    t1Word r.bhe r.addr &&& 0x100001 =
      (if r.bhe then 0x100000 else 0) ||| (if r.addr.getLsbD 0 then 1 else 0)) ∧
  t1Word false 0xFFFF0 = 0x0FFFF0 ∧ t1Word true 0x00102 = 0x100102

/-! ### What each instruction does: the next state it answers -/

/-- Data reads of memory complete, row by row (R151 to R155): the bytes of memory reach `rdata` on
their lanes and EU. The lane that a byte read does not select is a free value (R53, R156).
Where XFER.W.ODD.2 moves its byte is GK4, presumed (log entry 20).
The datum `d` of an odd-address word, and a second half without a first, are log entry 29. -/
def Obligations.MemoryReadsDeliver : Prop :=
  ∀ (s : State) (a : Addr) (seg : SegReg) (d : DatumId),
    ((Instr.xferWEven a (.memRead seg)).wellFormed = true →
      exec (.xferWEven a (.memRead seg)) s = .next { s with
        rdata := joinBytes (s.mem.read (a + 1).toNat) (s.mem.read a.toNat)
        received := .word (joinBytes (s.mem.read (a + 1).toNat) (s.mem.read a.toNat)) }) ∧
    ((Instr.xferBEven a (.memRead seg)).wellFormed = true →
      exec (.xferBEven a (.memRead seg)) s = .next { s with
        rdata := joinBytes (Config.freeLaneByte s.clock 1) (s.mem.read a.toNat)
        received := .byte (s.mem.read a.toNat) }) ∧
    ((Instr.xferBOdd a (.memRead seg)).wellFormed = true →
      exec (.xferBOdd a (.memRead seg)) s = .next { s with
        rdata := joinBytes (s.mem.read a.toNat) (Config.freeLaneByte s.clock 0)
        received := .byte (s.mem.read a.toNat) }) ∧
    ((Instr.xferWOdd1 a ⟨.memRead seg, d⟩).wellFormed = true →
      exec (.xferWOdd1 a ⟨.memRead seg, d⟩) s = .next { s with
        rdata := joinBytes (s.mem.read a.toNat) (Config.freeLaneByte s.clock 0)
        halves := ⟨d, s.mem.read a.toNat⟩ :: s.otherHalves d }) ∧
    ((Instr.xferWOdd2 a ⟨.memRead seg, d⟩).wellFormed = true →
      exec (.xferWOdd2 a ⟨.memRead seg, d⟩) s = .next { s with
        rdata := joinBytes (Config.freeLaneByte s.clock 1) (s.mem.read a.toNat)
        halves := s.otherHalves d
        received := .word (joinBytes (s.mem.read a.toNat) (s.lowOf d)) })

/-- Writes of memory complete, row by row, where no byte written is a queued one (R151 to R155,
R57): the bytes go from their lanes to memory, and nothing else changes.
Where XFER.W.ODD.2 moves its byte is GK4, presumed (log entry 20). -/
def Obligations.MemoryWritesStore : Prop :=
  ∀ (s : State) (a : Addr) (seg : SegReg) (w : Word) (d : DatumId), s.queued a = false →
    ((Instr.xferWEven a (.memWrite seg w)).wellFormed = true → s.queued (a + 1) = false →
      exec (.xferWEven a (.memWrite seg w)) s = .next { s with
        mem := (s.mem.write a.toNat (lowByte w)).write (a + 1).toNat (highByte w) }) ∧
    ((Instr.xferBEven a (.memWrite seg w)).wellFormed = true →
      exec (.xferBEven a (.memWrite seg w)) s = .next { s with
        mem := s.mem.write a.toNat (lowByte w) }) ∧
    ((Instr.xferBOdd a (.memWrite seg w)).wellFormed = true →
      exec (.xferBOdd a (.memWrite seg w)) s = .next { s with
        mem := s.mem.write a.toNat (highByte w) }) ∧
    ((Instr.xferWOdd1 a ⟨.memWrite seg w, d⟩).wellFormed = true →
      exec (.xferWOdd1 a ⟨.memWrite seg w, d⟩) s = .next { s with
        mem := s.mem.write a.toNat (highByte w) }) ∧
    ((Instr.xferWOdd2 a ⟨.memWrite seg w, d⟩).wellFormed = true →
      exec (.xferWOdd2 a ⟨.memWrite seg w, d⟩) s = .next { s with
        mem := s.mem.write a.toNat (lowByte w) })

/-- Port reads complete, row by row, at ports that exist (R157, R41): a port with plain storage
gives its byte, any other port any byte (R49; the free values `Config.freePortByte`).
Where XFER.W.ODD.2 moves its byte is GK4, presumed (log entry 20).
The datum `d` of an odd-address word, and a second half without a first, are log entry 29.
Which ports have storage is log entry 12. -/
def Obligations.PortReadsDeliver : Prop :=
  ∀ (s : State) (a : Addr) (d : DatumId), a.toNat < s.params.portCount →
    let port (p : Addr) : Byte :=
      if s.params.storagePort p.toNat then s.io.read p.toNat
      else Config.freePortByte s.clock p.toNat
    ((Instr.xferWEven a .ioRead).wellFormed = true → (a + 1).toNat < s.params.portCount →
      exec (.xferWEven a .ioRead) s = .next { s with
        rdata := joinBytes (port (a + 1)) (port a)
        received := .word (joinBytes (port (a + 1)) (port a)) }) ∧
    ((Instr.xferBEven a .ioRead).wellFormed = true →
      exec (.xferBEven a .ioRead) s = .next { s with
        rdata := joinBytes (Config.freeLaneByte s.clock 1) (port a)
        received := .byte (port a) }) ∧
    ((Instr.xferBOdd a .ioRead).wellFormed = true →
      exec (.xferBOdd a .ioRead) s = .next { s with
        rdata := joinBytes (port a) (Config.freeLaneByte s.clock 0)
        received := .byte (port a) }) ∧
    ((Instr.xferWOdd1 a ⟨.ioRead, d⟩).wellFormed = true →
      exec (.xferWOdd1 a ⟨.ioRead, d⟩) s = .next { s with
        rdata := joinBytes (port a) (Config.freeLaneByte s.clock 0)
        halves := ⟨d, port a⟩ :: s.otherHalves d }) ∧
    ((Instr.xferWOdd2 a ⟨.ioRead, d⟩).wellFormed = true →
      exec (.xferWOdd2 a ⟨.ioRead, d⟩) s = .next { s with
        rdata := joinBytes (Config.freeLaneByte s.clock 1) (port a)
        halves := s.otherHalves d
        received := .word (joinBytes (port a) (s.lowOf d)) })

/-- Port writes complete, row by row, at ports that exist (R157).
Where XFER.W.ODD.2 moves its byte is GK4, presumed (log entry 20). -/
def Obligations.PortWritesStore : Prop :=
  ∀ (s : State) (a : Addr) (w : Word) (d : DatumId), a.toNat < s.params.portCount →
    ((Instr.xferWEven a (.ioWrite w)).wellFormed = true → (a + 1).toNat < s.params.portCount →
      exec (.xferWEven a (.ioWrite w)) s = .next { s with
        io := (s.io.write a.toNat (lowByte w)).write (a + 1).toNat (highByte w) }) ∧
    ((Instr.xferBEven a (.ioWrite w)).wellFormed = true →
      exec (.xferBEven a (.ioWrite w)) s = .next { s with
        io := s.io.write a.toNat (lowByte w) }) ∧
    ((Instr.xferBOdd a (.ioWrite w)).wellFormed = true →
      exec (.xferBOdd a (.ioWrite w)) s = .next { s with
        io := s.io.write a.toNat (highByte w) }) ∧
    ((Instr.xferWOdd1 a ⟨.ioWrite w, d⟩).wellFormed = true →
      exec (.xferWOdd1 a ⟨.ioWrite w, d⟩) s = .next { s with
        io := s.io.write a.toNat (highByte w) }) ∧
    ((Instr.xferWOdd2 a ⟨.ioWrite w, d⟩).wellFormed = true →
      exec (.xferWOdd2 a ⟨.ioWrite w, d⟩) s = .next { s with
        io := s.io.write a.toNat (lowByte w) })

/-- Fetches complete, row by row, where their bytes fit the queue (R158, R19): the bytes read are
appended to the queue with their addresses.
Where XFER.W.ODD.2 moves its byte is GK4, presumed (log entry 20).
That each half of an odd-address word fetch is appended in its own T4, and leaves `d` alone, is log
entry 29. -/
def Obligations.FetchesFillTheQueue : Prop :=
  ∀ (s : State) (a : Addr) (d : DatumId), s.queue.length + 1 ≤ s.params.queueLen →
    ((Instr.xferWEven a .fetch).wellFormed = true → s.queue.length + 2 ≤ s.params.queueLen →
      exec (.xferWEven a .fetch) s = .next { s with
        rdata := joinBytes (s.mem.read (a + 1).toNat) (s.mem.read a.toNat)
        queue := s.queue ++ [⟨a, s.mem.read a.toNat⟩, ⟨a + 1, s.mem.read (a + 1).toNat⟩] }) ∧
    ((Instr.xferBEven a .fetch).wellFormed = true →
      exec (.xferBEven a .fetch) s = .next { s with
        rdata := joinBytes (Config.freeLaneByte s.clock 1) (s.mem.read a.toNat)
        queue := s.queue ++ [⟨a, s.mem.read a.toNat⟩] }) ∧
    ((Instr.xferBOdd a .fetch).wellFormed = true →
      exec (.xferBOdd a .fetch) s = .next { s with
        rdata := joinBytes (s.mem.read a.toNat) (Config.freeLaneByte s.clock 0)
        queue := s.queue ++ [⟨a, s.mem.read a.toNat⟩] }) ∧
    ((Instr.xferWOdd1 a ⟨.fetch, d⟩).wellFormed = true →
      exec (.xferWOdd1 a ⟨.fetch, d⟩) s = .next { s with
        rdata := joinBytes (s.mem.read a.toNat) (Config.freeLaneByte s.clock 0)
        queue := s.queue ++ [⟨a, s.mem.read a.toNat⟩] }) ∧
    ((Instr.xferWOdd2 a ⟨.fetch, d⟩).wellFormed = true →
      exec (.xferWOdd2 a ⟨.fetch, d⟩) s = .next { s with
        rdata := joinBytes (Config.freeLaneByte s.clock 1) (s.mem.read a.toNat)
        queue := s.queue ++ [⟨a, s.mem.read a.toNat⟩] })

/-- Interrupt-acknowledge cycles complete, row by row, and change nothing but what EU received and the
data left for the cycles to come (R159). What they read is "part of the parameter `int_entry`" (R159, D41),
or, where it gives none, free (log entry 13).
Where XFER.W.ODD.2 moves its byte is GK4, presumed (log entry 20).
The datum `d` of an odd-address word, and a second half without a first, are log entry 29. -/
def Obligations.AcknowledgeCyclesComplete : Prop :=
  ∀ (s : State) (a : Addr) (d : DatumId),
    let ack (p : Addr) : Byte :=
      match s.acks with
      | w :: _ => if p.getLsbD 0 then highByte w else lowByte w
      | [] => Config.freeAckByte s.clock p.toNat
    ((Instr.xferWEven a .intAck).wellFormed = true →
      exec (.xferWEven a .intAck) s = .next { s with
        rdata := joinBytes (ack (a + 1)) (ack a)
        acks := s.acks.tail
        received := .word (joinBytes (ack (a + 1)) (ack a)) }) ∧
    ((Instr.xferBEven a .intAck).wellFormed = true →
      exec (.xferBEven a .intAck) s = .next { s with
        rdata := joinBytes (Config.freeLaneByte s.clock 1) (ack a)
        acks := s.acks.tail
        received := .byte (ack a) }) ∧
    ((Instr.xferBOdd a .intAck).wellFormed = true →
      exec (.xferBOdd a .intAck) s = .next { s with
        rdata := joinBytes (ack a) (Config.freeLaneByte s.clock 0)
        acks := s.acks.tail
        received := .byte (ack a) }) ∧
    ((Instr.xferWOdd1 a ⟨.intAck, d⟩).wellFormed = true →
      exec (.xferWOdd1 a ⟨.intAck, d⟩) s = .next { s with
        rdata := joinBytes (ack a) (Config.freeLaneByte s.clock 0)
        acks := s.acks.tail
        halves := ⟨d, ack a⟩ :: s.otherHalves d }) ∧
    ((Instr.xferWOdd2 a ⟨.intAck, d⟩).wellFormed = true →
      exec (.xferWOdd2 a ⟨.intAck, d⟩) s = .next { s with
        rdata := joinBytes (Config.freeLaneByte s.clock 1) (ack a)
        acks := s.acks.tail
        halves := s.otherHalves d
        received := .word (joinBytes (ack a) (s.lowOf d)) })

/-- R170: executing WAIT sets `waiting`, writes no flag, raises nothing; the count of T states since
TEST was examined starts (the model's own field, log entry 16). -/
def Obligations.WaitEntersTheWaitingState : Prop :=
  ∀ s : State, exec .wait s = .next { s with waiting := true, sinceSample := 0 }

/-! ### Where a transfer stops -/

/-- R57: a write cycle is refused exactly where it writes the address of a queued byte; the row
decides which bytes it writes.
The refusal is the spec's own decision (D22). -/
def Obligations.WritesToQueuedBytesAreRefused : Prop :=
  ∀ (s : State) (a : Addr) (seg : SegReg) (w : Word) (d : DatumId),
    (exec (.xferWEven a (.memWrite seg w)) s = .refused .writeToQueuedInstruction ↔
      s.queued a = true ∨ s.queued (a + 1) = true) ∧
    (exec (.xferBEven a (.memWrite seg w)) s = .refused .writeToQueuedInstruction ↔
      s.queued a = true) ∧
    (exec (.xferBOdd a (.memWrite seg w)) s = .refused .writeToQueuedInstruction ↔
      s.queued a = true) ∧
    (a ≠ 0xFFFFF → (exec (.xferWOdd1 a ⟨.memWrite seg w, d⟩) s = .refused .writeToQueuedInstruction ↔
      s.queued a = true)) ∧
    (exec (.xferWOdd2 a ⟨.memWrite seg w, d⟩) s = .refused .writeToQueuedInstruction ↔
      s.queued a = true)

/-- R60: a word access at FFFFFH is refused, in the access and in its first cycle, and nothing else is
refused for it when it is offered; for every other odd address the access has its two cycles, at the
address and at the address plus one, which does not carry out of 20 bits. Where EU begins an access in a
T state its cycles wait to be offered, after those left, and nothing else changes (R53); at FFFFFH a word
is refused there, and the T state with it, and no other access is. The refusal is the spec's own
decision (D12); the second cycle's address is GK4 (log entries 15, 20); that an access's cycles wait after
those left is log entry 28. -/
def Obligations.WordAtTopOfMemoryIsRefused : Prop :=
  (∀ (s : State) (op : BusOp) (d : DatumId),
    s.access ⟨0xFFFFF, true, op, d⟩ = .refused .wordAtTopOfMemory ∧
    exec (.xferWOdd1 0xFFFFF ⟨op, d⟩) s = .refused .wordAtTopOfMemory) ∧
  (∀ (s : State) (e : EuIn) (r : Request), s.offered e = some r →
    s.startOrIdle e = .refused .wordAtTopOfMemory →
    r.addr = 0xFFFFF ∧ r.bhe = false ∧ r.half.isSome = true) ∧
  (∀ (a : Addr) (op : BusOp) (d : DatumId), a.getLsbD 0 = true → a ≠ 0xFFFFF →
    (a + 1).toNat = a.toNat + 1 ∧
    ∃ op1 op2, Access.requests ⟨a, true, op, d⟩ =
      some [⟨a, false, some d, op1⟩, ⟨a + 1, true, some d, op2⟩]) ∧
  (∀ (s : State) (e : EuIn), e.access = none → s.beginAccess e = .next s) ∧
  ∀ (s : State) (e : EuIn) (x : Access), e.access = some x →
    (∀ rs, x.requests = some rs →
      s.beginAccess e = .next { s with pending := s.pending ++ rs }) ∧
    (x.requests = none ↔ x.wide = true ∧ x.addr = 0xFFFFF) ∧
    (x.wide = true → x.addr = 0xFFFFF →
      s.beginAccess e = .refused .wordAtTopOfMemory ∧
      (s.turn = .bus → s.input.env.mnmx = modeLevel s.params.mode → s.input.env.reset = false →
        s.waiting = false → s.input.eu = e → step s = .refused .wordAtTopOfMemory))

/-- There are 2 to the `IO_ADDR_BITS` ports (R41), and 2^16 where the parameter is greater, AD15~AD0 being 16
lines (log entry 11). Two stops that are the model's own choice: an I/O transfer whose port address is none
of these is refused in every row (log entry 11; the row XFER.W.ODD.1 at FFFFFH is refused for that first), and a fetch whose bytes do
not fit the queue (R19), two for a word and one for any other row, is refused (log entry 9). And no I/O
cycle starts but at a port that exists, with A19~A16 = 0000 (R41). -/
def Obligations.MissingPortsAndFullQueuesStop : Prop :=
  (∀ p : Params, (p.ioAddrBits ≤ 16 → p.portCount = 2 ^ p.ioAddrBits) ∧
    (16 ≤ p.ioAddrBits → p.portCount = 65536)) ∧
  (∀ (s : State) (a : Addr) (w : Word) (op : BusOp) (d : DatumId) (i : Instr),
    i = .xferWEven a op ∨ i = .xferBEven a op ∨ i = .xferBOdd a op ∨ i = .xferWOdd1 a ⟨op, d⟩ ∨
      i = .xferWOdd2 a ⟨op, d⟩ →
    ((op = .ioRead ∨ op = .ioWrite w) → a ≠ 0xFFFFF ∨ i ≠ .xferWOdd1 a ⟨op, d⟩ →
      s.params.portCount ≤ a.toNat →
      exec i s = .refused .noSuchPort) ∧
    (op = .fetch → i.wellFormed = true →
      s.params.queueLen < s.queue.length + (if i = .xferWEven a op then 2 else 1) →
      exec i s = .refused .queueOverflow)) ∧
  ∀ (s t : State) (e : EuIn) (r : Request), s.offered e = some r → s.startOrIdle e = .next t →
    r.op = .ioRead ∨ (∃ w, r.op = .ioWrite w) →
    r.addr.toNat < s.params.portCount ∧ r.addr.extractLsb' 16 4 = 0

/-! ### Frames -/

/-- What no transfer changes, whatever its row and operation: every register, FLAGS with them, the
bus, the latches, the wait, the interrupt state, the latch, the inputs. A read changes no memory
and no port; a write of memory no port, no queue and nothing of what EU received; a write of a port
no memory. Only an acknowledge cycle uses up acknowledge data. A half of an odd-address word, and no
other transfer, touches its own datum and no other's; that a fetch on any row touches none, where
R154 and R155 write `d` on a read, is the model's choice (log entry 29). -/
def Obligations.TransfersLeaveTheRest : Prop :=
  ∀ (i : Instr) (s t : State) (a : Addr) (op : BusOp) (d : DatumId),
    i = .xferWEven a op ∨ i = .xferBEven a op ∨ i = .xferBOdd a op ∨ i = .xferWOdd1 a ⟨op, d⟩ ∨
      i = .xferWOdd2 a ⟨op, d⟩ →
    exec i s = .next t →
    (t.params = s.params ∧ t.regs = s.regs ∧ t.bus = s.bus ∧ t.latch = s.latch ∧
      t.nmiPrev = s.nmiPrev ∧ t.nmiPending = s.nmiPending ∧ t.intrAccept = s.intrAccept ∧
      t.waiting = s.waiting ∧ t.sinceSample = s.sinceSample ∧ t.inReset = s.inReset ∧
      t.turn = s.turn ∧ t.pending = s.pending ∧ t.nest = s.nest ∧
      t.responseDue = s.responseDue ∧ t.executing = s.executing ∧
      t.firstFetchDue = s.firstFetchDue ∧ t.events = s.events ∧ t.clock = s.clock ∧
      t.script = s.script ∧ t.program = s.program) ∧
    (opWdata op = none → t.mem = s.mem ∧ t.io = s.io) ∧
    (opWdata op ≠ none → t.queue = s.queue ∧ t.rdata = s.rdata ∧ t.halves = s.halves ∧
      t.received = s.received) ∧
    (opSpace op ≠ .mem → t.mem = s.mem) ∧ (opSpace op ≠ .io → t.io = s.io) ∧
    (opPurpose op ≠ .fetch → t.queue = s.queue) ∧
    (opPurpose op = .fetch → t.received = s.received ∧ t.halves = s.halves) ∧
    (opPurpose op ≠ .ack → t.acks = s.acks) ∧
    (i = .xferWEven a op ∨ i = .xferBEven a op ∨ i = .xferBOdd a op → t.halves = s.halves) ∧
    ∀ d', d' ≠ d → t.lowOf d' = s.lowOf d'

/-- The bytes a write of memory stores to, row by row, and that every other byte reads as before
(R151 to R156): the byte at `a + 1` of a byte write, and the byte at `a - 1`, are unchanged.
Where XFER.W.ODD.2 moves its byte is GK4, presumed (log entry 20). -/
def Obligations.WritesTouchOnlyTheirBytes : Prop :=
  ∀ (s t : State) (a : Addr) (seg : SegReg) (w : Word) (d : DatumId), s.mem.wf = true →
    ((Instr.xferWEven a (.memWrite seg w)).wellFormed = true →
      exec (.xferWEven a (.memWrite seg w)) s = .next t →
      t.mem.read a.toNat = lowByte w ∧ t.mem.read (a + 1).toNat = highByte w ∧
      ∀ b, b ≠ a.toNat → b ≠ (a + 1).toNat → t.mem.read b = s.mem.read b) ∧
    (∀ i, i = Instr.xferBEven a (.memWrite seg w) ∨ i = Instr.xferWOdd2 a ⟨.memWrite seg w, d⟩ →
      exec i s = .next t →
      t.mem.read a.toNat = lowByte w ∧ ∀ b, b ≠ a.toNat → t.mem.read b = s.mem.read b) ∧
    (∀ i, i = Instr.xferBOdd a (.memWrite seg w) ∨ i = Instr.xferWOdd1 a ⟨.memWrite seg w, d⟩ →
      exec i s = .next t →
      t.mem.read a.toNat = highByte w ∧ ∀ b, b ≠ a.toNat → t.mem.read b = s.mem.read b)

/-! ### Whole accesses (R53) -/

/-- R150: the transfer type is fixed by the width and bit 0 of the address, and shows as BHE, AD0: a word at
an even address is one cycle XFER.W.EVEN (0 0), a byte at an even address XFER.B.EVEN (1 0), a byte at
an odd one XFER.B.ODD (0 1), a word at an odd one XFER.W.ODD.1 (0 1) followed by XFER.W.ODD.2 (1 0); for
reads and writes alike. The cycles are in the access's space, through its segment register, for its
purpose, and a read's are reads; of a write's datum `v`, `v[7:0]` stands on the selected lane of a byte's
cycle and of an odd word's first, `v[15:8]` on that of its second (R53). (FFFFFH, a refused word, is
`WordAtTopOfMemoryIsRefused`.)
That the second cycle is at the next address, with 1 0, is GK4, presumed (log entry 20). -/
def Obligations.AccessesSelectTheirRows : Prop :=
  ∀ (a : Addr) (op : BusOp) (d : DatumId),
    let sameKind (op' : BusOp) : Prop :=
      opSpace op' = opSpace op ∧ opSeg op' = opSeg op ∧ opPurpose op' = opPurpose op ∧
        (opWdata op = none → op' = op)
    let carries (op' : BusOp) (lane part : Word → Byte) : Prop :=
      ∀ v, opWdata op = some v → ∃ w, opWdata op' = some w ∧ lane w = part v
    (a.getLsbD 0 = false →
      Access.requests ⟨a, true, op, d⟩ = some [⟨a, false, none, op⟩] ∧
      Request.instr ⟨a, false, none, op⟩ = some (.xferWEven a op) ∧
      (∃ op1, Access.requests ⟨a, false, op, d⟩ = some [⟨a, true, none, op1⟩] ∧
        Request.instr ⟨a, true, none, op1⟩ = some (.xferBEven a op1) ∧
        sameKind op1 ∧ carries op1 lowByte lowByte)) ∧
    (a.getLsbD 0 = true →
      (∃ op1, Access.requests ⟨a, false, op, d⟩ = some [⟨a, false, none, op1⟩] ∧
        Request.instr ⟨a, false, none, op1⟩ = some (.xferBOdd a op1) ∧
        sameKind op1 ∧ carries op1 highByte lowByte) ∧
      (a ≠ 0xFFFFF → (a + 1).getLsbD 0 = false ∧
        ∃ op1 op2, Access.requests ⟨a, true, op, d⟩ =
            some [⟨a, false, some d, op1⟩, ⟨a + 1, true, some d, op2⟩] ∧
          Request.instr ⟨a, false, some d, op1⟩ = some (.xferWOdd1 a ⟨op1, d⟩) ∧
          Request.instr ⟨a + 1, true, some d, op2⟩ = some (.xferWOdd2 (a + 1) ⟨op2, d⟩) ∧
          sameKind op1 ∧ carries op1 highByte lowByte ∧
          sameKind op2 ∧ carries op2 lowByte highByte))

/-- R43: little-endian. A word read, at an even or an odd address, gives the byte at its address as
its low byte and the byte at the next address as its high byte; byte reads of the two give the same
bytes: `MemRead(a, 2)[7:0] = MemRead(a, 1)`, `MemRead(a, 2)[15:8] = MemRead(a + 1, 1)`.
That the other byte is at the next HIGHER address is GK4, presumed (log entry 20). -/
def Obligations.MemoryIsLittleEndian : Prop :=
  ∀ (s : State) (a : Addr) (seg : SegReg) (d : DatumId), a ≠ 0xFFFFF →
    ∃ t t0 t1 w, s.access ⟨a, true, .memRead seg, d⟩ = .next t ∧ t.received = .word w ∧
      s.access ⟨a, false, .memRead seg, d⟩ = .next t0 ∧ t0.received = .byte (lowByte w) ∧
      s.access ⟨a + 1, false, .memRead seg, d⟩ = .next t1 ∧ t1.received = .byte (highByte w) ∧
      lowByte w = s.mem.read a.toNat ∧ highByte w = s.mem.read (a + 1).toNat

/-- R54 (3), R53: `MemRead` after `MemWrite` at the same address and width returns the datum written, a
word at every address an access has, even or odd, a byte at every address, and every other byte reads as
before. `IORead` after `IOWrite` the same (R157), at ports that exist and have storage, memory being
unchanged. Where XFER.W.ODD.2 moves its byte is GK4, presumed (log entry 20); which ports have storage is
log entry 12. -/
def Obligations.WordReadsBackWhatWasWritten : Prop :=
  (∀ (s : State) (a : Addr) (seg seg' : SegReg) (v : Word) (d : DatumId),
    s.mem.wf = true → s.queued a = false →
    (a ≠ 0xFFFFF → s.queued (a + 1) = false →
      ∃ t u, s.access ⟨a, true, .memWrite seg v, d⟩ = .next t ∧
        t.access ⟨a, true, .memRead seg', d⟩ = .next u ∧ u.received = .word v ∧ u.mem = t.mem ∧
        t.io = s.io ∧
        ∀ b, b ≠ a.toNat → b ≠ (a + 1).toNat → t.mem.read b = s.mem.read b) ∧
    ∃ t u, s.access ⟨a, false, .memWrite seg v, d⟩ = .next t ∧
      t.access ⟨a, false, .memRead seg', d⟩ = .next u ∧ u.received = .byte (lowByte v) ∧
      u.mem = t.mem ∧ t.io = s.io ∧
      ∀ b, b ≠ a.toNat → t.mem.read b = s.mem.read b) ∧
  ∀ (s : State) (a : Addr) (v : Word) (d : DatumId),
    s.io.wf = true → a.toNat < s.params.portCount → s.params.storagePort a.toNat = true →
    ((a + 1).toNat < s.params.portCount → s.params.storagePort (a + 1).toNat = true →
      ∃ t u, s.access ⟨a, true, .ioWrite v, d⟩ = .next t ∧
        t.access ⟨a, true, .ioRead, d⟩ = .next u ∧ u.received = .word v ∧ u.io = t.io ∧
        t.mem = s.mem ∧
        ∀ b, b ≠ a.toNat → b ≠ (a + 1).toNat → t.io.read b = s.io.read b) ∧
    ∃ t u, s.access ⟨a, false, .ioWrite v, d⟩ = .next t ∧
      t.access ⟨a, false, .ioRead, d⟩ = .next u ∧ u.received = .byte (lowByte v) ∧
      u.io = t.io ∧ t.mem = s.mem ∧
      ∀ b, b ≠ a.toNat → t.io.read b = s.io.read b

/-- R48: an odd-address word is written in two bus cycles, and between them its low byte is written
and its high byte is not.
Where XFER.W.ODD.2 moves its byte is GK4, presumed (log entry 20). -/
def Obligations.OddWordIsWrittenInHalves : Prop :=
  ∀ (s : State) (a : Addr) (seg : SegReg) (v : Word) (d : DatumId),
    a.getLsbD 0 = true → a ≠ 0xFFFFF → s.mem.wf = true →
    s.queued a = false → s.queued (a + 1) = false →
    ∃ r1 r2 t u, Access.requests ⟨a, true, .memWrite seg v, d⟩ = some [r1, r2] ∧
      s.effect r1 = .next t ∧ t.effect r2 = .next u ∧
      t.mem.read a.toNat = lowByte v ∧ t.mem.read (a + 1).toNat = s.mem.read (a + 1).toNat ∧
      u.mem.read a.toNat = lowByte v ∧ u.mem.read (a + 1).toNat = highByte v

/-- R53, `Effect`: the rows' meanings agree with the one description of a bus cycle's effect by its
lanes: a write stores `wdata[7:0]` at the address with bit 0 cleared if AD0 = 0, and `wdata[15:8]` at
the address with bit 0 set if BHE = 0, and nothing else; a read puts those bytes on `rdata`. -/
def Obligations.EffectFollowsTheLanes : Prop :=
  ∀ (s t : State) (r : Request), s.effect r = .next t → s.mem.wf = true →
    (∀ seg w, r.op = .memWrite seg w → ∀ b : Addr, t.mem.read b.toNat =
      if r.low = true ∧ b = evenOf r.addr then lowByte w
      else if r.high = true ∧ b = oddOf r.addr then highByte w
      else s.mem.read b.toNat) ∧
    (∀ seg, r.op = .memRead seg →
      (r.low = true → lowByte t.rdata = s.mem.read (evenOf r.addr).toNat) ∧
      (r.high = true → highByte t.rdata = s.mem.read (oddOf r.addr).toNat))

/-! ### T states and the bus cycle -/

/-- R93, R102: in a T state without RESET the bus goes from T1 to T2, T2 to T3, T3 and TW to TW or
T4 (TW if READY is low, T4 if it is high, R99), T4 and TI to T1 or TI; the cycle in progress is the
same until its T4; and EU's moves leave the bus alone.
TI (GK9) and the states in which READY is looked at (GK10) are presumed (log entry 22). -/
def Obligations.TStatesFollowInOrder : Prop :=
  ∀ s t : State, step s = .next t →
    (s.turn ≠ .bus → t.bus = s.bus) ∧
    (s.turn = .bus → s.input.env.reset = false →
      s.bus.t.mayPrecede t.bus.t = true ∧
      (∀ ph r, s.bus = .cycle ph r → ph ≠ .t4 → ∃ ph', t.bus = .cycle ph' r) ∧
      (∀ ph r, s.bus = .cycle ph r → ph = .t3 ∨ ph = .tw →
        t.bus.t = if s.input.env.ready then TState.t4 else TState.tw))

/-- R91, R99, R105: a bus cycle lasts 4 + n_w T states, n_w being the number of T states from T3 on
in which READY is low. From its T1, after T1, T2, T3 and n_w wait states, the coming T state is T4,
memory, ports and what EU received are as before, and the latch holds the cycle's address; READY in
T1 and T2 is arbitrary. n_w has no upper bound: while READY stays low the cycle stays in TW. And R225:
in a run, finite or infinite, that is `ReadyFair` every bus cycle comes to its T4 or is cut short by RESET. That READY is
looked at in T3 and TW is GK10, presumed (log entry 22). -/
def Obligations.BusCycleLastsFourPlusWaits : Prop :=
  (∀ (s : State) (r : Request) (i1 i2 i3 : TInput) (low rest : List TInput),
    s.turn = .bus → s.waiting = false → s.responseDue = false → s.bus = .cycle .t1 r →
    calm s.params i1 = true → calm s.params i2 = true →
    (∀ i ∈ low, calm s.params i = true ∧ i.env.ready = false) →
    calm s.params i3 = true → i3.env.ready = true →
    s.script = i1 :: i2 :: (low ++ i3 :: rest) →
    ∃ t, Sys2Proof.core.run (3 + low.length) s = .next t ∧
      t.bus = .cycle .t4 r ∧ t.turn = .bus ∧ t.waiting = false ∧
      t.clock = s.clock + (3 + low.length) ∧ t.script = rest ∧
      t.latch = { addr := r.addr, bhe := r.bhe } ∧
      t.mem = s.mem ∧ t.io = s.io ∧ t.rdata = s.rdata ∧ t.received = s.received) ∧
  (∀ (s : State) (r : Request) (low rest : List TInput),
    s.turn = .bus → s.waiting = false → s.responseDue = false → s.bus = .cycle .tw r →
    (∀ i ∈ low, calm s.params i = true ∧ i.env.ready = false) → s.script = low ++ rest →
    ∃ t, Sys2Proof.core.run low.length s = .next t ∧ t.bus = .cycle .tw r ∧
      t.mem = s.mem ∧ t.io = s.io) ∧
  ∀ (len : Option Nat) (ρ : Nat → State), IsRun len ρ → ReadyFair len ρ →
    ∀ n ph r, InRun len n → (ρ n).bus = .cycle ph r →
      ∃ m, n ≤ m ∧ InRun len m ∧ ((ρ m).resetting ∨ (ρ m).bus = .cycle .t4 r)

/-- R100: "Before T4 a write has changed nothing and a read has delivered nothing": a T state other
than T4, without RESET, changes no byte of memory or port and nothing EU received, and the queue, to
which a fetch delivers (R158), gains no byte: it changes only by the oldest bytes that EU takes from it,
outside a wait. When EU's taking is seen is log entry 7. -/
def Obligations.NothingMovesBeforeT4 : Prop :=
  ∀ s t : State, step s = .next t →
    (s.turn = .bus → s.bus.t ≠ .t4 ∧ s.input.env.reset = false) →
    t.mem = s.mem ∧ t.io = s.io ∧ t.rdata = s.rdata ∧ t.halves = s.halves ∧
      t.received = s.received ∧
      t.queue = (if s.turn = .bus ∧ s.waiting = false then s.queue.drop s.input.eu.consume
        else s.queue)

/-- R99, R123: READY is read in T3 and TW only: in any other T state, and whatever else happens in
it, the step is the same for both levels of READY.
That READY is looked at in T3 and TW is GK10, presumed (log entry 22). -/
def Obligations.ReadyIsReadInT3AndTwOnly : Prop :=
  ∀ (s : State) (b : Bool), s.turn = .bus → s.bus.t ≠ .t3 → s.bus.t ≠ .tw →
    step (s.withReady b) = step s

/-- R124: TEST has an effect only while WAIT waits. -/
def Obligations.TestIsIgnoredOutsideTheWait : Prop :=
  ∀ (s : State) (b : Bool), s.turn = .bus → s.waiting = false → step (s.withTest b) = step s

/-- R121, R183: INTR is read in the last clock of an instruction only, and in a wait (R174). -/
def Obligations.IntrIsReadInTheLastClockOnly : Prop :=
  ∀ (s : State) (b : Bool), s.turn = .bus → s.waiting = false →
    s.input.eu.instrLastClock = false → step (s.withIntr b) = step s

/-- R98: in T1 the latch takes the address and BHE of the cycle; no other T state, and no move of
EU, changes it, RESET included (R31).
That BHE is latched too is GK8, presumed (log entry 25). -/
def Obligations.LatchLoadsInT1Only : Prop :=
  ∀ s t : State, step s = .next t →
    (∀ r, s.turn = .bus → s.input.env.reset = false → s.bus = .cycle .t1 r →
      t.latch = { addr := r.addr, bhe := r.bhe }) ∧
    (s.turn ≠ .bus ∨ s.bus.t ≠ .t1 ∨ s.input.env.reset = true → t.latch = s.latch)

/-- A step in T4 runs the instruction that the cycle's T1 word decodes to, with what EU knows of it.
With no wait and no access beginning it runs it in the state in which the T state's inputs have been
seen, and then starts the next cycle or idles and does what EU does (R100, R101). In general, in a wait
too (R175), parts 3 and 4 of `Step` come before it as R101 orders them: the wait's share, the access EU
begins. That EU's register writes and moves come at the end of the T state is log entry 7, that the
access is begun before the cycle's effect is log entry 28. The other T states run the same parts around
what R101 gives for TI (the request offered starts its T1, or the bus idles, R102), T1 (the latch, R98),
T2, T3 and TW (READY, R99). What the parts before and after touch is said with them: the wait's share
nothing outside a wait, EU's share registers, queue and its own place. -/
def Obligations.StepRunsTheCyclesInstruction : Prop :=
  (∀ (s : State) (r : Request) (i : Instr), s.turn = .bus →
    s.input.env.mnmx = modeLevel s.params.mode → s.input.env.reset = false →
    s.bus = .cycle .t4 r →
    decode ⟨r.op, r.half⟩ (.t1 (t1Word r.bhe r.addr)) = .ok i →
    (s.waiting = false → s.input.eu.access = none →
      step s = Out.andThen (exec i (s.leaveReset.sampleInterrupts s.input)) fun s1 =>
        Out.andThen (s1.startOrIdle s.input.eu) fun s2 =>
          .next (s2.euEffects false s.input.eu).tick) ∧
    step s =
      Out.andThen ((s.leaveReset.sampleInterrupts s.input).waitStep s.input) fun s1 =>
      Out.andThen (s1.beginAccess s.input.eu) fun s2 =>
      Out.andThen (exec i s2) fun s3 =>
      Out.andThen (s3.startOrIdle s.input.eu) fun s4 =>
        .next (s4.euEffects s.waiting s.input.eu).tick) ∧
  (∀ s : State, s.turn = .bus →
    s.input.env.mnmx = modeLevel s.params.mode → s.input.env.reset = false →
    let e := s.input.eu
    let around (part4 : State → Host.Outcome State Fault Refusal) :=
      Out.andThen ((s.leaveReset.sampleInterrupts s.input).waitStep s.input) fun s1 =>
      Out.andThen (s1.beginAccess e) fun s2 =>
      Out.andThen (part4 s2) fun s3 => .next (s3.euEffects s.waiting e).tick
    (s.bus = .idle →
      step s = around (fun s2 => s2.startOrIdle e) ∧
      (s.waiting = false → e.access = none →
        (s.offered e = none →
          ∃ t, step s = .next t ∧ t.bus = .idle ∧ t.pending = s.pending) ∧
        ∀ r, s.offered e = some r → s.objection r = none →
          ∃ t, step s = .next t ∧ t.bus = .cycle .t1 r ∧ t.pending = s.pendingAfter e ∧
            t.firstFetchDue = false)) ∧
    ∀ ph r, s.bus = .cycle ph r → ph ≠ .t4 →
      step s = around fun s2 => .next { s2 with
        latch := if ph = .t1 then { addr := r.addr, bhe := r.bhe } else s2.latch
        bus := .cycle
          (match ph with
            | .t1 => .t2
            | .t2 => .t3
            | .t3 | .tw | .t4 => if s.input.env.ready then .t4 else .tw) r }) ∧
  (∀ (s : State) (i : TInput), s.waiting = false → s.waitStep i = .next s) ∧
  ∀ (s : State) (wasWaiting : Bool) (e : EuIn), s.euEffects wasWaiting e = { s with
    regs := if wasWaiting then s.regs else s.regs.writeAll e.writes
    queue := if wasWaiting then s.queue else s.queue.drop e.consume
    turn := (s.euEffects wasWaiting e).turn
    responseDue := (s.euEffects wasWaiting e).responseDue
    executing := (s.euEffects wasWaiting e).executing }

/-- Where EU begins an instruction whose byte decodes, the step runs it (R101, R170). A byte that does
not is an instruction the spec does not describe (R80): nothing but its place in EU's course changes. Either
way EU is then in the execution of an instruction, the model's own mark of it (log entry 8).
That EU's move is a step of its own, and where its byte comes from, are log entries 8 and 24. -/
def Obligations.StepRunsEusInstruction : Prop :=
  ∀ (s : State) (b : Byte), s.waiting = false → s.action = .instr b →
    s.turn = .start ∨ (s.turn = .instrEnd ∧ s.chosenInterrupt = none) →
    (∀ i, decode i.known (.byte b) = .ok i →
      step s = exec i { s with turn := .bus, program := s.program.tail, executing := true }) ∧
    ((∀ k i, decode k (.byte b) ≠ .ok i) →
      step s = .next { s with turn := .bus, program := s.program.tail, executing := true })

/-! ### Which requests the bus takes -/

/-- R79: the code BHE AD0 = 1 1 selects no byte. An offered request with it, and no other, is refused
for it where the bus would take it; and a memory that sees it transfers nothing. -/
def Obligations.NoByteSelectedIsRefused : Prop :=
  (∀ (s : State) (e : EuIn) (r : Request), s.offered e = some r →
    (s.startOrIdle e = .refused .noByteSelected ↔ r.bhe = true ∧ r.addr.getLsbD 0 = true)) ∧
  (∀ r : Request, (r.low = false ∧ r.high = false) ↔ (r.bhe = true ∧ r.addr.getLsbD 0 = true)) ∧
  ∀ (s : State) (r : Request), r.bhe = true → r.addr.getLsbD 0 = true → s.effect r = .next s

/-- R101: where the bus is free it takes the request EU offers, if nothing is objected to it, and idles
if EU offers none. Where EU goes on with what it has begun that is the first request left of it, which is
then left no longer, so an access's cycles come in order (R53); otherwise it is EU's own request, and what
is left stays (log entry 28). It is taken exactly if it is `Admissible` (R101: a code of R73, and in a wait
a fetch) and meets what the spec says of every request EU offers: the first fetch after RESET (R212),
`fetch_kind` (R158), no half of the word at FFFFFH (R60), a port that exists (R41); that a request which
does not is refused is the model's (log entries 10, 11, 15). R175: while WAIT waits a fetch that is otherwise admissible, on any row
`fetch_kind` allows, is taken, and any request that is no fetch is refused.
That a request which is no fetch refuses the run is the spec's own decision (D35, R101). -/
def Obligations.OnlyFetchesStartWhileWaiting : Prop :=
  (∀ (s : State) (e : EuIn),
    (∀ r rs, e.goOn = true → s.pending = r :: rs → s.offered e = some r ∧
      (s.objection r = none → s.startOrIdle e = .next { s with
        bus := .cycle .t1 r, pending := rs, firstFetchDue := false })) ∧
    (e.goOn = false ∨ s.pending = [] → s.offered e = e.req ∧
      (e.req = none → s.startOrIdle e = .next { s with bus := .idle }) ∧
      ∀ r, e.req = some r → s.objection r = none → s.startOrIdle e = .next { s with
        bus := .cycle .t1 r, firstFetchDue := false }) ∧
    (∀ r x, s.offered e = some r → s.objection r = some x → s.startOrIdle e = .refused x) ∧
    ∀ r, s.offered e = some r →
      let admitted : Prop :=
        (r.bhe = false ∨ r.addr.getLsbD 0 = false) ∧
        (s.waiting = false ∨ r.op = .fetch) ∧
        (s.firstFetchDue = false ∨ (r.op = .fetch ∧ r.addr = 0xFFFF0)) ∧
        (r.op = .fetch → s.params.fetchKind = .anyRow ∨
          (r.bhe = false ∧ (r.addr.getLsbD 0 = false ∨ r.half = none))) ∧
        (r.half = none ∨ r.addr ≠ 0xFFFFF) ∧
        (∀ w, r.op = .ioRead ∨ r.op = .ioWrite w → r.addr.toNat < s.params.portCount)
      (admitted → s.startOrIdle e = .next { s with
        bus := .cycle .t1 r, pending := s.pendingAfter e, firstFetchDue := false }) ∧
      ∀ t, s.startOrIdle e = .next t → admitted) ∧
  ∀ (s : State) (e : EuIn) (r : Request), s.waiting = true → s.offered e = some r →
    r.bhe = false ∨ r.addr.getLsbD 0 = false →
    (r.op ≠ .fetch → s.startOrIdle e = .refused .dataRequestDuringWait) ∧
    (r.op = .fetch → s.firstFetchDue = false ∨ r.addr = 0xFFFF0 →
      r.fetchKindOk s.params.fetchKind = true → r.half = none ∨ r.addr ≠ 0xFFFFF →
      s.startOrIdle e = .next { s with
        bus := .cycle .t1 r, pending := s.pendingAfter e, firstFetchDue := false })

/-- R212: while the first fetch is due, the only cycle a step can start is a fetch at FFFF0H, with
CS on S4 S3 (code 10), and it is due no longer; a word fetch there is taken.
That another first request refuses the run is log entry 10. -/
def Obligations.FirstCycleAfterResetIsTheFetch : Prop :=
  (∀ (s t : State) (r : Request), s.firstFetchDue = true → step s = .next t →
    s.bus.t = .ti ∨ s.bus.t = .t4 → t.bus = .cycle .t1 r →
    r.op = .fetch ∧ r.addr = 0xFFFF0 ∧ segCode (opSeg r.op) = 0b10 ∧ t.firstFetchDue = false) ∧
  ∀ (s : State) (e : EuIn), s.firstFetchDue = true → s.waiting = false →
    s.offered e = some (Request.wordFetch 0xFFFF0) →
    s.startOrIdle e = .next { s with
      bus := .cycle .t1 (Request.wordFetch 0xFFFF0)
      pending := s.pendingAfter e
      firstFetchDue := false }

/-- R112: MN/MX at 1 selects minimum mode, at 0 maximum mode. A level other than the strapped one is
refused, and for no other reason is a T state refused so. That the strap is looked at before RESET, so RESET or not, is the model's choice (log
entry 27). -/
def Obligations.ModeChangeIsRefused : Prop :=
  modeLevel .min = true ∧ modeLevel .max = false ∧
  ∀ s : State, s.turn = .bus →
    (step s = .refused .modeChanged ↔
      (s.params.mode = .min ∧ s.input.env.mnmx = false) ∨
      (s.params.mode = .max ∧ s.input.env.mnmx = true))

/-! ### RESET -/

/-- R28: in a T state with RESET high the CPU ends its operation (no bus cycle, no wait), every
register takes its reset value (FLAGS, with IF, IP, DS, SS, ES cleared, CS = 0FFFFH) and the queue is
emptied, whatever the state before. -/
def Obligations.ResetClearsTheRegistersAndTheQueue : Prop :=
  ∀ s : State, s.turn = .bus → s.input.env.mnmx = modeLevel s.params.mode →
    s.input.env.reset = true →
    ∃ t, step s = .next t ∧ t.bus.t = .ti ∧ t.waiting = false ∧
      t.regs.flags = 0 ∧ t.regs.ifFlag = false ∧ t.regs.ip = 0 ∧
      t.regs.cs = 0xFFFF ∧ t.regs.ds = 0 ∧ t.regs.ss = 0 ∧ t.regs.es = 0 ∧ t.queue = []

/-- R29, R211, R213: RESET ends the bus cycle and the wait, drops both interrupt requests, and takes
the level of NMI so that a level held through RESET is no rise; nothing of READY, INTR or TEST is
seen. The fields that are the model's own (turn, pending, nest, halves, responseDue,
executing, acks, firstFetchDue) follow log entry 4; that the event is recorded in the first T state of a RESET, and in no
other, is log entry 27. -/
def Obligations.ResetEndsTheCurrentOperation : Prop :=
  ∀ s t : State, s.turn = .bus → s.input.env.reset = true → step s = .next t →
    t.bus = .idle ∧ t.waiting = false ∧ t.intrAccept = false ∧ t.nmiPending = false ∧
    t.nmiPrev = s.input.env.nmi ∧ t.inReset = true ∧ t.turn = .bus ∧ t.pending = [] ∧
    t.nest = [] ∧ t.halves = [] ∧ t.responseDue = false ∧ t.executing = false ∧ t.acks = [] ∧
    t.firstFetchDue = true ∧ t.clock = s.clock + 1 ∧
    t.events = (if s.inReset then s.events else Event.reset :: s.events) ∧
    (∀ b, step (s.withReady b) = step s) ∧ (∀ b, step (s.withIntr b) = step s) ∧
    (∀ b, step (s.withTest b) = step s)

/-- R31, R214: RESET leaves the latch as it was, and memory and ports too, but for the bytes of a
write cycle it cut short: each of those, where the write's lanes select it, is afterwards its old or
its new value, and no other byte changes; of a memory write, memory, of a port write, ports. A read
cycle, an idle bus, or a RESET already on changes none. -/
def Obligations.ResetKeepsMemoryButAbandonedBytes : Prop :=
  ∀ s t : State, s.turn = .bus → s.input.env.reset = true → step s = .next t →
    s.mem.wf = true → s.io.wf = true →
    t.latch = s.latch ∧
    (s.inReset = true ∨ s.bus = .idle ∨ (∃ ph r, s.bus = .cycle ph r ∧ opWdata r.op = none) →
      t.mem = s.mem ∧ t.io = s.io) ∧
    (∀ ph r seg w, s.bus = .cycle ph r → r.op = .memWrite seg w → t.io = s.io ∧
      ∀ b : Addr, t.mem.read b.toNat = s.mem.read b.toNat ∨
        (r.low = true ∧ b = evenOf r.addr ∧ t.mem.read b.toNat = lowByte w) ∨
        (r.high = true ∧ b = oddOf r.addr ∧ t.mem.read b.toNat = highByte w)) ∧
    (∀ ph r w, s.bus = .cycle ph r → r.op = .ioWrite w → t.mem = s.mem ∧
      ∀ b : Addr, t.io.read b.toNat = s.io.read b.toNat ∨
        (r.low = true ∧ b = evenOf r.addr ∧ t.io.read b.toNat = lowByte w) ∨
        (r.high = true ∧ b = oddOf r.addr ∧ t.io.read b.toNat = highByte w))

/-! ### Interrupt requests -/

/-- R182: in every T state a rise of NMI is latched, a level that stays, high or low, makes no
request, and a request once made stays until it is answered; IF plays no part. -/
def Obligations.NmiRisesAreLatched : Prop :=
  ∀ s t : State, s.turn = .bus → s.input.env.reset = false → step s = .next t →
    t.nmiPrev = s.input.env.nmi ∧
    (t.nmiPending = true ↔
      s.nmiPending = true ∨ (s.nmiPrev = false ∧ s.input.env.nmi = true))

/-- R183, R184: in the last clock of an instruction INTR is tested with the IF of that T state, and
in no other T state does `intrAccept` change, the wait apart (R174). With IF = 0 INTR is ignored. A
T state in which a response is due is no instruction's last clock (log entry 34).
The place of IF in FLAGS is GK17, presumed (log entry 6); that a write of FLAGS by EU in that T state is
not yet seen is log entry 7, and that EU then stands at the instruction's end, in the execution of none, is
log entry 8. -/
def Obligations.IntrIsTestedInTheLastClock : Prop :=
  ∀ s t : State, s.turn = .bus → s.input.env.reset = false → s.waiting = false →
    step s = .next t →
    (s.input.eu.instrLastClock = true → s.responseDue = false →
      t.intrAccept = (s.input.env.intr && s.regs.ifFlag) ∧ t.turn = .instrEnd ∧
      t.executing = false) ∧
    (s.input.eu.instrLastClock = false ∨ s.responseDue = true →
      t.intrAccept = s.intrAccept ∧ t.executing = s.executing)

/-- R181, R182, R183, R188: at the end of an instruction an acceptable request is answered and not
the next instruction: NMI whatever IF is; INTR if it was accepted and NMI does not go first; under
`INT_PRIORITY` = open one of the two. With none, EU goes on. R190: it is answered once the instruction's
bus cycles have run. Until then the response is due, and each T state leaves EU where it begins neither a
response nor an instruction; the T state after which they have run brings EU to the instruction's end
again, with both requests kept (log entry 34). In an interruptible wait the wait goes on instead, and
INTR is looked at afresh (log entry 26). R181, "with no further instruction in between": EU comes to
the beginning of an instruction other than through such an end, with NMI pending, only where no
instruction was in execution, after RESET (R215) or after a response (log entry 8). R225: a bus cycle held
in TW holds the response too, a fetch's as well (log entry 34). -/
def Obligations.RequestsAreAnsweredByPriority : Prop :=
  (∀ s : State, s.turn = .instrEnd →
    (s.cyclesDone = true →
      (s.nmiPending = true → s.intrAccept = false →
        step s = takeInterrupt .nmi { s with turn := .bus }) ∧
      (s.nmiPending = false → s.intrAccept = true →
        step s = takeInterrupt .intr { s with turn := .bus }) ∧
      (s.nmiPending = true → s.intrAccept = true →
        (s.params.intPriority = .nmiFirst →
          step s = takeInterrupt .nmi { s with turn := .bus }) ∧
        (s.params.intPriority = .intrFirst →
          step s = takeInterrupt .intr { s with turn := .bus }) ∧
        (step s = takeInterrupt .nmi { s with turn := .bus } ∨
          step s = takeInterrupt .intr { s with turn := .bus }))) ∧
    (s.cyclesDone = false → s.nmiPending = true ∨ s.intrAccept = true →
      (s.waiting = false → step s = .next { s with turn := .bus, responseDue := true }) ∧
      (s.waiting = true →
        step s = .next { s with turn := .bus, responseDue := false, intrAccept := false })) ∧
    (s.nmiPending = false → s.intrAccept = false → step s = { s with turn := .bus }.euAct)) ∧
  (∀ s t : State, s.turn = .bus → s.input.env.reset = false → s.waiting = false →
    s.responseDue = true → step s = .next t →
    (t.cyclesDone = true → t.turn = .instrEnd ∧ t.responseDue = false) ∧
    (t.cyclesDone = false → t.turn = .bus ∧ t.responseDue = true) ∧
    (s.nmiPending = true → t.nmiPending = true) ∧ t.intrAccept = s.intrAccept ∧
    t.waiting = false) ∧
  (∀ s t : State, s.turn = .bus → s.input.env.reset = false → step s = .next t →
    t.turn = .start → t.nmiPending = true → s.executing = false ∧ s.waiting = false) ∧
  ∀ (s : State) (r : Request), s.bus = .cycle .tw r → s.cyclesDone = false

/-- R189: a response raises its event, consumes its request and no other, and hands over to
`int_entry(kind, σ)`: the registers are as it says, its bus requests wait to be offered, and its
acknowledge data wait for their cycles (R159). Memory, ports, queue and bus are untouched. A fixed
`int_entry` is the response it names for the kind, a free one any, a form its expressions and accesses
evaluated in the state at the event, refused exactly where one of them is a word at FFFFFH. Without
`int_entry` the run is refused, and so it is where the response reads or accesses the word at FFFFFH
(R60). That its requests come after those EU had left is log entry 28, that its acknowledge data replace
what an earlier response left log entry 13, the record of the interrupted wait log entry 19, how
`int_entry` is written, and that reading the word at FFFFFH in it is refused too, log entry 32. -/
def Obligations.ResponseHandsOverToIntEntry : Prop :=
  (∀ (s : State) (k : IntKind),
    (s.params.intEntry = none → takeInterrupt k s = .refused .interruptEntryUnmodelled) ∧
    ∀ e, s.params.intEntry = some e →
      (entryResponse e k s = none → takeInterrupt k s = .refused .wordAtTopOfMemory) ∧
      ∀ resp, entryResponse e k s = some resp →
        ∃ t, takeInterrupt k s = .next t ∧
          t.events = intEvent k :: s.events ∧
          t.nmiPending = (if k = .nmi then false else s.nmiPending) ∧
          t.intrAccept = (if k = .intr then false else s.intrAccept) ∧
          t.regs = s.regs.writeAll resp.writes ∧
          t.pending = s.pending ++ resp.requests ∧ t.acks = resp.acks ∧
          t.nest = s.waiting :: s.nest ∧ t.waiting = false ∧ t.executing = false ∧
          t.mem = s.mem ∧ t.io = s.io ∧ t.queue = s.queue ∧ t.bus = s.bus ∧
          t.latch = s.latch ∧ t.nmiPrev = s.nmiPrev ∧ t.clock = s.clock ∧ t.params = s.params) ∧
  (∀ (k : IntKind) (s : State),
    (∀ nmi intr, entryResponse (.fixed nmi intr) k s =
      some (match k with | .nmi => nmi | .intr => intr)) ∧
    (entryResponse .free k s).isSome = true ∧
    ∀ nmi intr f, (k = .nmi ∧ f = nmi) ∨ (k = .intr ∧ f = intr) →
      (entryResponse (.form nmi intr) k s = none ↔
        (∃ w ∈ f.writes, evalEntry s w.2 = none) ∨ (∃ x ∈ f.accesses, entryRequests s x = none) ∨
        ∃ x ∈ f.acks, evalEntry s x = none) ∧
      ∀ resp, entryResponse (.form nmi intr) k s = some resp →
        f.writes.map (fun w => (w.1, evalEntry s w.2)) =
          resp.writes.map (fun w => (w.1, some w.2)) ∧
        f.acks.map (evalEntry s) = resp.acks.map some ∧
        ∃ rss : List (List Request), f.accesses.map (entryRequests s) = rss.map some ∧
          resp.requests = rss.flatten) ∧
  (∀ (s : State) (seg off : EntryExpr), evalEntry s (.mem seg off) =
    (evalEntry s seg).bind fun v => (evalEntry s off).bind fun w => s.mem.readWord (physAddr v w)) ∧
  (∀ (s : State) (w : Word) (r : Reg), evalEntry s (.lit w) = some w ∧
    evalEntry s (.reg r) = some (s.regs.read r)) ∧
  (∀ (s : State) (x y : EntryExpr) (v w : Word),
    evalEntry s x = some v → evalEntry s y = some w →
    evalEntry s (.add x y) = some (v + w) ∧ evalEntry s (.sub x y) = some (v - w) ∧
    evalEntry s (.and x y) = some (v &&& w) ∧ evalEntry s (.or x y) = some (v ||| w)) ∧
  (∀ (m : Memory) (a : Addr), (m.readWord a = none ↔ a = 0xFFFFF) ∧
    ∀ w, m.readWord a = some w →
      lowByte w = m.read a.toNat ∧ highByte w = m.read (a + 1).toNat) ∧
  ∀ (s : State) (x : EntryAccess), entryRequests s x =
    (evalEntry s x.seg).bind fun seg => (evalEntry s x.off).bind fun off =>
      (evalEntry s x.data).bind fun v =>
        Access.requests ⟨physAddr seg off, x.wide, opWithWdata x.op v, x.datum⟩

/-- R190: interrupts are taken at the end of an instruction only, "with all its bus cycles": a step that
begins a response starts where EU stands at such an end with an acceptable request and no bus cycle but a
fetch under way or still to be offered, and none held in TW (R225), and leaves the bus alone. That a wait which `wait_interruptible`
lets an interrupt leave counts as such an end is GK18, presumed (log entry 26; R190 leaves WAIT open); that
the end is a move of EU's own is log entry 8, how it waits for the bus cycles log entry 34. -/
def Obligations.InterruptsAreTakenAtInstructionEndsOnly : Prop :=
  ∀ (s t : State) (k : IntKind), step s = .next t → t.events = intEvent k :: s.events →
    s.turn = .instrEnd ∧ s.chosenInterrupt = some k ∧
    s.pending = [] ∧
    (s.bus = .idle ∨ ∃ ph r, s.bus = .cycle ph r ∧ r.op = .fetch ∧ ph ≠ .tw) ∧
    (k = .nmi → s.nmiPending = true) ∧ (k = .intr → s.intrAccept = true) ∧ t.bus = s.bus

/-- R15, R184: while IF = 0 no step makes INTR acceptable. That a T state in which EU sets IF still tests
INTR with the old IF is log entry 7. -/
def Obligations.MaskedIntrIsNeverAccepted : Prop :=
  ∀ s t : State, step s = .next t → s.regs.ifFlag = false → s.intrAccept = false →
    t.intrAccept = false

/-! ### The wait -/

/-- R170, R171, R174: the only ways out of the waiting state are RESET, TEST = 0 in a T state of the
bus that examines it, and, with `wait_interruptible`, a response. `waitHolds` is part of the invariant that
every step keeps. The third way is GK18, presumed (log entry 26). And the only way in is a move of EU's at
an instruction's beginning: WAIT, or a return to a WAIT that a response had interrupted; no T state begins
a wait. WAIT's byte 9BH is GK6, presumed (log entry 24); the return is log entry 19. -/
def Obligations.OnlyTheseEventsEndTheWait : Prop :=
  (∀ s t : State, s.waitHolds = true → step s = .next t → s.waiting = true → t.waiting = false →
    (s.turn = .bus ∧ s.input.env.reset = true) ∨
    (s.turn = .bus ∧ s.input.env.test = false ∧ s.testSampled = true) ∨
    (s.turn = .instrEnd ∧ s.params.waitInterruptible = true ∧
      ∃ k, s.chosenInterrupt = some k ∧ t.events = intEvent k :: s.events)) ∧
  ∀ s t : State, step s = .next t → s.waiting = false → t.waiting = true →
    (s.turn = .start ∨ (s.turn = .instrEnd ∧ s.chosenInterrupt = none)) ∧
    (s.action = .instr 0x9B ∨ (s.action = .ret ∧ ∃ o, s.nest = true :: o))

/-- R170, R172: a T state of the wait that examines TEST and finds it low ends the wait, and EU goes
on with the next instruction; with TEST high the wait goes on. No interrupt is requested here. -/
def Obligations.TestLowEndsTheWait : Prop :=
  ∀ s t : State, s.turn = .bus → s.input.env.reset = false → s.waiting = true →
    s.nmiPending = false → (s.nmiPrev = true ∨ s.input.env.nmi = false) →
    (s.input.env.intr = false ∨ s.regs.ifFlag = false) → step s = .next t →
    (s.input.env.test = false → s.testSampled = true → t.waiting = false ∧ t.turn ≠ .bus) ∧
    (s.input.env.test = true → t.waiting = true ∧ t.turn = .bus)

/-- R174: with `wait_interruptible` at its default a wait in which NMI is pending, or INTR is high
with IF = 1, is refused, whatever TEST is. -/
def Obligations.InterruptDuringWaitIsRefused : Prop :=
  ∀ s : State, s.turn = .bus → s.input.env.mnmx = modeLevel s.params.mode →
    s.input.env.reset = false → s.waiting = true → s.params.waitInterruptible = false →
    (s.nmiPending = true ∨ (s.nmiPrev = false ∧ s.input.env.nmi = true) ∨
      (s.input.env.intr = true ∧ s.regs.ifFlag = true)) →
    step s = .refused .interruptDuringWait

/-- R174 with `wait_interruptible` = true: the response begins during the wait. A T state of it in which
NMI is pending or rises, or INTR is high with IF = 1, puts EU at a boundary with that request, where it is
answered (`RequestsAreAnsweredByPriority`); the wait itself is over then only if TEST was examined and
low. The wait is left for the response, and WAIT is executed again when EU returns from it. A step in which EU returns does that to the innermost response; one that
interrupted no WAIT is left and nothing else changes, and with none in progress nothing does but EU's
place and mark. That a wait is left so is GK18, presumed (log entry 26); that the return is EU's action, and the
record of interrupted waits, are the model's (log entry 19), and that EU's move is a step, log entry 8. -/
def Obligations.InterruptedWaitIsExecutedAgain : Prop :=
  (∀ s t : State, s.turn = .bus → s.input.env.reset = false → s.waiting = true →
    s.params.waitInterruptible = true →
    (s.nmiPending = true ∨ (s.nmiPrev = false ∧ s.input.env.nmi = true) ∨
      (s.input.env.intr = true ∧ s.regs.ifFlag = true)) →
    step s = .next t →
    t.turn = .instrEnd ∧
    (t.nmiPending = true ↔ s.nmiPending = true ∨ (s.nmiPrev = false ∧ s.input.env.nmi = true)) ∧
    t.intrAccept = (s.input.env.intr && s.regs.ifFlag) ∧ t.chosenInterrupt.isSome = true ∧
    (t.waiting = false ↔ s.input.env.test = false ∧ s.testSampled = true)) ∧
  (∀ (s t : State) (k : IntKind), s.waiting = true → takeInterrupt k s = .next t →
    t.waiting = false ∧ (returnFromInterrupt t).waiting = true ∧
    (returnFromInterrupt t).nest = s.nest ∧
    exec .wait { t with nest := s.nest } = .next (returnFromInterrupt t)) ∧
  ∀ s : State, s.waiting = false → s.action = .ret →
    s.turn = .start ∨ (s.turn = .instrEnd ∧ s.chosenInterrupt = none) →
    (∀ o, s.nest = true :: o →
      step s = exec .wait { s with
        turn := .bus, program := s.program.tail, executing := true, nest := o } ∧
      ∃ t, step s = .next t ∧ t.waiting = true ∧ t.nest = o ∧ t.regs = s.regs) ∧
    (∀ o, s.nest = false :: o →
      step s = .next { s with
        turn := .bus, program := s.program.tail, executing := true, nest := o }) ∧
    (s.nest = [] → step s = .next { s with
      turn := .bus, program := s.program.tail, executing := true })

/-- R172, R225 (`TestFair`): a low level on TEST that lasts `TEST_POLL_MAX` T states always ends the
wait, within that many T states, if nothing else happens; after it EU begins the next instruction. And
in a run, finite or infinite, that is `TestFair` every wait ends. `TEST_POLL_MAX` = 0 counts as 1, the model's choice (log
entry 16). -/
def Obligations.FairTestEndsTheWait : Prop :=
  (∀ (s : State) (low rest : List TInput),
    s.turn = .bus → s.waiting = true → s.bus = .idle → s.pending = [] →
    s.nmiPending = false → s.pollBound = true →
    (∀ i ∈ low, testLow s.params s.nmiPrev i = true) →
    low.length = max 1 s.params.testPollMax → s.script = low ++ rest →
    ∃ n t, n ≤ low.length ∧ Sys2Proof.core.run n s = .next t ∧ t.waiting = false ∧
      t.turn = .start ∧ t.regs = s.regs ∧ t.mem = s.mem) ∧
  ∀ (len : Option Nat) (ρ : Nat → State), IsRun len ρ → TestFair len ρ →
    ∀ n, InRun len n → (ρ n).waiting = true → (ρ n).pollBound = true →
      ∃ m, n ≤ m ∧ InRun len m ∧ (ρ m).waiting = false

/-! ### The whole machine -/

/-- The invariant of the machine is kept by every step, from every state that has it: memories in
canonical form, the queue within `QUEUE_LEN` (R19), a legal cycle on the bus (R73), the latch (R98),
the reset state while RESET has not fallen (R213), the law of TEST (R172).
The clause on EU's boundaries in a wait is the model's (log entry 26), that on the beginning of an
instruction with NMI pending R181's, in the model's terms (log entry 8). -/
def Obligations.EveryStepKeepsTheInvariant : Prop :=
  ∀ s t : State, s.Inv → step s = .next t → t.Inv

/-- The machine right after RESET has the invariant, and the values R28 and R29 state: the
registers, IF = 0, an empty queue, no bus cycle, no wait, no pending request; (CS, IP) form FFFF0H.
The place of IF in FLAGS is GK17 (log entry 6), how CS and IP form the address GK3 (log entry 23). -/
def Obligations.ResetHasTheInvariantAndStatedValues : Prop :=
  State.reset.Inv ∧
  State.reset.regs = ⟨0, 0, 0xFFFF, 0, 0, 0⟩ ∧ State.reset.regs.ifFlag = false ∧
  State.reset.queue = [] ∧ State.reset.bus.t = .ti ∧ State.reset.waiting = false ∧
  State.reset.intrAccept = false ∧ State.reset.nmiPending = false ∧
  physAddr State.reset.regs.cs State.reset.regs.ip = 0xFFFF0

/-- The parameters are constant during a run (00, section 4; R112 for the mode). -/
def Obligations.ParametersAreConstant : Prop :=
  ∀ s t : State, step s = .next t → t.params = s.params

/-- R90: a step of the bus interface consumes exactly one T state, with its inputs; EU's moves
consume none, and no two of them follow each other. EU moves after a T state, with no wait and no
response due, where the T state's input says that EU's instruction ends or, none being in execution, that
one begins. EU's moves as steps of their own, and that mark, are the model's choice (log entry 8). -/
def Obligations.EachBusStepIsOneTState : Prop :=
  ∀ s t : State, step s = .next t →
    (s.turn = .bus → t.clock = s.clock + 1 ∧ t.script = s.script.tail ∧
      (s.input.env.reset = false → s.waiting = false → s.responseDue = false →
        t.turn = if s.input.eu.instrLastClock then .instrEnd
          else if s.input.eu.start ∧ s.executing = false then .start else .bus)) ∧
    (s.turn ≠ .bus → t.clock = s.clock ∧ t.script = s.script ∧ t.turn = .bus)

/-- R14, R170, R189, R211: the registers change only by RESET, by EU's writes in a T state that is
none of a wait, and by `int_entry` at a response; and by each they change exactly so: RESET gives them
their reset values, EU's writes are made, all of them and in order, a wait makes none, a response makes
`int_entry`'s, and any other move of EU's none.
When EU's writes take effect is the model's choice (log entry 7), that EU's moves are steps log entry 8,
and that a response waits for the instruction's bus cycles log entry 34. -/
def Obligations.RegistersHaveThreeWriters : Prop :=
  (∀ (g : Regs) (ws : List (Reg × Word)) (r r' : Reg) (v : Word), g.writeAll [] = g ∧
    (g.writeAll (ws ++ [(r, v)])).read r' = if r' = r then v else (g.writeAll ws).read r') ∧
  ∀ s t : State, step s = .next t →
    (s.turn = .bus →
      t.regs =
        if s.input.env.reset = true then Regs.atReset
        else if s.waiting = true then s.regs
        else s.regs.writeAll s.input.eu.writes) ∧
    (s.turn = .start ∨ s.chosenInterrupt = none ∨ s.cyclesDone = false → s.turn ≠ .bus →
      t.regs = s.regs) ∧
    ∀ k, s.turn = .instrEnd → s.chosenInterrupt = some k → s.cyclesDone = true →
      ∃ e resp, s.params.intEntry = some e ∧
        entryResponse e k { s with turn := .bus } = some resp ∧
        t.regs = s.regs.writeAll resp.writes

/-! ### Pins and addresses -/

/-- R74: in T2, T3, TW and T4 S4 (pin 37) and S3 (pin 38) show the segment register of the cycle: 00
ES, 01 SS, 10 CS, 11 DS; and 10 for an I/O access and an interrupt response. -/
def Obligations.SegmentCodesAreTheTables : Prop :=
  (∀ (s : State) (ph : Phase) (r : Request), s.bus = .cycle ph r → ph ≠ .t1 →
    s.input.env.reset = false →
    (∀ seg w, r.op = .memRead seg ∨ r.op = .memWrite seg w →
      (s.pins.a17s4, s.pins.a16s3) =
        (match seg with
         | .es => (.low, .low)
         | .ss => (.low, .high)
         | .cs => (.high, .low)
         | .ds => (.high, .high))) ∧
    (∀ w, r.op = .ioRead ∨ r.op = .ioWrite w ∨ r.op = .intAck ∨ r.op = .fetch →
      (s.pins.a17s4, s.pins.a16s3) = (.high, .low))) ∧
  ∀ m, pinName m 37 = some "A17/S4" ∧ pinName m 38 = some "A16/S3"

/-- R185: in T2, T3, TW and T4, the status phase, of every bus cycle pin 36 shows IF as S5; and pins
35 to 38 together carry S6 = 0, S5 and the segment code, in TW as in T3 (R75, R95, R97). -/
def Obligations.StatusPinsInTheDataPhase : Prop :=
  (∀ (s : State) (ph : Phase) (r : Request), s.bus = .cycle ph r → ph ≠ .t1 →
    s.input.env.reset = false →
    s.pins.a18s5 = (if s.regs.ifFlag then .high else .low) ∧
    s.pins.status = [.low, Level.ofBool s.regs.ifFlag,
      Level.ofBool ((segCode (opSeg r.op)).getLsbD 1),
      Level.ofBool ((segCode (opSeg r.op)).getLsbD 0)]) ∧
  ∀ m, pinName m 36 = some "A18/S5"

/-- R103, R104, R119 (GK11): RD is never undriven, RESET or not. Outside RESET it is low exactly in T2,
T3 and TW of a read cycle, so high in every TI (R102, D19; R30, which differs before the first bus cycle,
is log entry 33), and the CPU does not drive AD15~AD0 in the data phase of a read. -/
def Obligations.RdMarksReads : Prop :=
  ∀ s : State, s.pins.rd ≠ .z ∧
    (s.input.env.reset = false →
      (s.pins.rd = .low ↔ ∃ ph r, s.bus = .cycle ph r ∧ opWdata r.op = none ∧
        (ph = .t2 ∨ ph = .t3 ∨ ph = .tw)) ∧
      ∀ ph r, s.bus = .cycle ph r → ph ≠ .t1 → opWdata r.op = none →
        s.pins.adCpu = List.replicate 16 .z)

/-- R100, R104, R134: D`k` is on AD`k` of the lanes the transfer code selects: `wdata` from T2 to T4
of a write, driven by the CPU; and in T4 of a read, of memory, of ports or of an acknowledge cycle, what
the step that consumes T4 delivers in `rdata`. What acknowledge cycles and ports without storage give is
log entries 13 and 12. -/
def Obligations.DataLinesCarryTheSelectedLanes : Prop :=
  ∀ (s : State) (ph : Phase) (r : Request), s.bus = .cycle ph r → s.input.env.reset = false →
    (∀ w, ph ≠ .t1 → opWdata r.op = some w →
      (r.low = true → ∀ k, k < 8 → s.pins.adCpu[k]? = some (Level.ofBool (w.getLsbD k)) ∧
        s.pins.adBus[k]? = some (Level.ofBool (w.getLsbD k))) ∧
      (r.high = true → ∀ k, 8 ≤ k → k < 16 →
        s.pins.adCpu[k]? = some (Level.ofBool (w.getLsbD k)) ∧
        s.pins.adBus[k]? = some (Level.ofBool (w.getLsbD k)))) ∧
    (∀ t, ph = .t4 → s.turn = .bus → opWdata r.op = none → step s = .next t →
      (r.low = true → ∀ k, k < 8 → s.pins.adBus[k]? = some (Level.ofBool (t.rdata.getLsbD k))) ∧
      (r.high = true → ∀ k, 8 ≤ k → k < 16 →
        s.pins.adBus[k]? = some (Level.ofBool (t.rdata.getLsbD k))))

/-- R52 (GK3): `addr = (zext_20(x[seg]) * 16 + zext_20(offset)) mod 2^20`; CS = 0FFFFH with IP =
0000H gives FFFF0H. -/
def Obligations.AddressesAreSegmentTimes16PlusOffset : Prop :=
  (∀ seg off : Word, (physAddr seg off).toNat = (seg.toNat * 16 + off.toNat) % 2 ^ 20) ∧
  physAddr 0xFFFF 0x0000 = 0xFFFF0

/-- R70, R83: the pin table, in both modes. Its counts (R113): 40 pins, 3 of power and ground (1, 20,
40), the clock (19), 20 address/data pins, 16 control pins of which 8 are common; 32 pins have one
name in both modes and pins 24 to 31 have two. -/
def Obligations.PinBudget : Prop :=
  ((List.range 40).map fun k => pinName .min (1 + k)) =
    [some "GND", some "AD14", some "AD13", some "AD12", some "AD11", some "AD10", some "AD9",
     some "AD8", some "AD7", some "AD6", some "AD5", some "AD4", some "AD3", some "AD2",
     some "AD1", some "AD0", some "NMI", some "INTR", some "CLK", some "GND", some "RESET",
     some "READY", some "TEST", some "INTA", some "ALE", some "DEN", some "DT/R", some "M/IO",
     some "WR", some "HLDA", some "HOLD", some "RD", some "MN/MX", some "BHE/S7",
     some "A19/S6", some "A18/S5", some "A17/S4", some "A16/S3", some "AD15", some "VCC"] ∧
  ((List.range 8).map fun k => pinName .max (24 + k)) =
    [some "QS1", some "QS0", some "S0", some "S1", some "S2", some "LOCK", some "RQ/GT1",
     some "RQ/GT0"] ∧
  (∀ n, 1 ≤ n → n ≤ 40 → n < 24 ∨ 31 < n → pinName .max n = pinName .min n) ∧
  allPins.length = 40 ∧ (allPins.filter fun p => p.minName == p.maxName).length = 32 ∧
  (supplyPins.map Pin.number) = [1, 20, 40, 19] ∧ addressPins.length = 20 ∧
  (∀ p ∈ addressPins, (2 ≤ p.number ∧ p.number ≤ 16) ∨ (35 ≤ p.number ∧ p.number ≤ 39)) ∧
  (commonControlPins ++ modeControlPins).length = 16 ∧ commonControlPins.length = 8 ∧
  (∀ p ∈ commonControlPins ++ modeControlPins,
    p.number = 17 ∨ p.number = 18 ∨ (21 ≤ p.number ∧ p.number ≤ 34)) ∧
  ∀ p ∈ commonControlPins, p.minName = p.maxName
end

