-- ==== Sys2Proof/Laws/State.lean ====
section
/-!
SUPPORT. What each named update of the state does to each field, by definition: later proofs cite
these and unfold no update.
-/

namespace Sys2Proof.Machine

/-! ### `tick` -/

@[simp] theorem State.tick_params (s : State) :
    (s.tick).params = s.params := rfl

@[simp] theorem State.tick_regs (s : State) :
    (s.tick).regs = s.regs := rfl

@[simp] theorem State.tick_queue (s : State) :
    (s.tick).queue = s.queue := rfl

@[simp] theorem State.tick_bus (s : State) :
    (s.tick).bus = s.bus := rfl

@[simp] theorem State.tick_rdata (s : State) :
    (s.tick).rdata = s.rdata := rfl

@[simp] theorem State.tick_nmiPrev (s : State) :
    (s.tick).nmiPrev = s.nmiPrev := rfl

@[simp] theorem State.tick_nmiPending (s : State) :
    (s.tick).nmiPending = s.nmiPending := rfl

@[simp] theorem State.tick_intrAccept (s : State) :
    (s.tick).intrAccept = s.intrAccept := rfl

@[simp] theorem State.tick_waiting (s : State) :
    (s.tick).waiting = s.waiting := rfl

@[simp] theorem State.tick_inReset (s : State) :
    (s.tick).inReset = s.inReset := rfl

@[simp] theorem State.tick_latch (s : State) :
    (s.tick).latch = s.latch := rfl

@[simp] theorem State.tick_mem (s : State) :
    (s.tick).mem = s.mem := rfl

@[simp] theorem State.tick_io (s : State) :
    (s.tick).io = s.io := rfl

@[simp] theorem State.tick_turn (s : State) :
    (s.tick).turn = s.turn := rfl

@[simp] theorem State.tick_pending (s : State) :
    (s.tick).pending = s.pending := rfl

@[simp] theorem State.tick_halves (s : State) :
    (s.tick).halves = s.halves := rfl

@[simp] theorem State.tick_received (s : State) :
    (s.tick).received = s.received := rfl

@[simp] theorem State.tick_nest (s : State) :
    (s.tick).nest = s.nest := rfl

@[simp] theorem State.tick_responseDue (s : State) :
    (s.tick).responseDue = s.responseDue := rfl

@[simp] theorem State.tick_executing (s : State) :
    (s.tick).executing = s.executing := rfl

@[simp] theorem State.tick_acks (s : State) :
    (s.tick).acks = s.acks := rfl

@[simp] theorem State.tick_firstFetchDue (s : State) :
    (s.tick).firstFetchDue = s.firstFetchDue := rfl

@[simp] theorem State.tick_sinceSample (s : State) :
    (s.tick).sinceSample = s.sinceSample := rfl

@[simp] theorem State.tick_events (s : State) :
    (s.tick).events = s.events := rfl

@[simp] theorem State.tick_clock (s : State) :
    (s.tick).clock = s.clock + 1 := rfl

@[simp] theorem State.tick_script (s : State) :
    (s.tick).script = s.script.tail := rfl

@[simp] theorem State.tick_program (s : State) :
    (s.tick).program = s.program := rfl

/-! ### `beginWait` -/

@[simp] theorem State.beginWait_params (s : State) :
    (s.beginWait).params = s.params := rfl

@[simp] theorem State.beginWait_regs (s : State) :
    (s.beginWait).regs = s.regs := rfl

@[simp] theorem State.beginWait_queue (s : State) :
    (s.beginWait).queue = s.queue := rfl

@[simp] theorem State.beginWait_bus (s : State) :
    (s.beginWait).bus = s.bus := rfl

@[simp] theorem State.beginWait_rdata (s : State) :
    (s.beginWait).rdata = s.rdata := rfl

@[simp] theorem State.beginWait_nmiPrev (s : State) :
    (s.beginWait).nmiPrev = s.nmiPrev := rfl

@[simp] theorem State.beginWait_nmiPending (s : State) :
    (s.beginWait).nmiPending = s.nmiPending := rfl

@[simp] theorem State.beginWait_intrAccept (s : State) :
    (s.beginWait).intrAccept = s.intrAccept := rfl

@[simp] theorem State.beginWait_waiting (s : State) :
    (s.beginWait).waiting = true := rfl

@[simp] theorem State.beginWait_inReset (s : State) :
    (s.beginWait).inReset = s.inReset := rfl

@[simp] theorem State.beginWait_latch (s : State) :
    (s.beginWait).latch = s.latch := rfl

@[simp] theorem State.beginWait_mem (s : State) :
    (s.beginWait).mem = s.mem := rfl

@[simp] theorem State.beginWait_io (s : State) :
    (s.beginWait).io = s.io := rfl

@[simp] theorem State.beginWait_turn (s : State) :
    (s.beginWait).turn = s.turn := rfl

@[simp] theorem State.beginWait_pending (s : State) :
    (s.beginWait).pending = s.pending := rfl

@[simp] theorem State.beginWait_halves (s : State) :
    (s.beginWait).halves = s.halves := rfl

@[simp] theorem State.beginWait_received (s : State) :
    (s.beginWait).received = s.received := rfl

@[simp] theorem State.beginWait_nest (s : State) :
    (s.beginWait).nest = s.nest := rfl

@[simp] theorem State.beginWait_responseDue (s : State) :
    (s.beginWait).responseDue = s.responseDue := rfl

@[simp] theorem State.beginWait_executing (s : State) :
    (s.beginWait).executing = s.executing := rfl

@[simp] theorem State.beginWait_acks (s : State) :
    (s.beginWait).acks = s.acks := rfl

@[simp] theorem State.beginWait_firstFetchDue (s : State) :
    (s.beginWait).firstFetchDue = s.firstFetchDue := rfl

@[simp] theorem State.beginWait_sinceSample (s : State) :
    (s.beginWait).sinceSample = 0 := rfl

@[simp] theorem State.beginWait_events (s : State) :
    (s.beginWait).events = s.events := rfl

@[simp] theorem State.beginWait_clock (s : State) :
    (s.beginWait).clock = s.clock := rfl

@[simp] theorem State.beginWait_script (s : State) :
    (s.beginWait).script = s.script := rfl

@[simp] theorem State.beginWait_program (s : State) :
    (s.beginWait).program = s.program := rfl

/-! ### `leaveReset` -/

@[simp] theorem State.leaveReset_params (s : State) :
    (s.leaveReset).params = s.params := rfl

@[simp] theorem State.leaveReset_regs (s : State) :
    (s.leaveReset).regs = s.regs := rfl

@[simp] theorem State.leaveReset_queue (s : State) :
    (s.leaveReset).queue = s.queue := rfl

@[simp] theorem State.leaveReset_bus (s : State) :
    (s.leaveReset).bus = s.bus := rfl

@[simp] theorem State.leaveReset_rdata (s : State) :
    (s.leaveReset).rdata = s.rdata := rfl

@[simp] theorem State.leaveReset_nmiPrev (s : State) :
    (s.leaveReset).nmiPrev = s.nmiPrev := rfl

@[simp] theorem State.leaveReset_nmiPending (s : State) :
    (s.leaveReset).nmiPending = s.nmiPending := rfl

@[simp] theorem State.leaveReset_intrAccept (s : State) :
    (s.leaveReset).intrAccept = s.intrAccept := rfl

@[simp] theorem State.leaveReset_waiting (s : State) :
    (s.leaveReset).waiting = s.waiting := rfl

@[simp] theorem State.leaveReset_inReset (s : State) :
    (s.leaveReset).inReset = false := rfl

@[simp] theorem State.leaveReset_latch (s : State) :
    (s.leaveReset).latch = s.latch := rfl

@[simp] theorem State.leaveReset_mem (s : State) :
    (s.leaveReset).mem = s.mem := rfl

@[simp] theorem State.leaveReset_io (s : State) :
    (s.leaveReset).io = s.io := rfl

@[simp] theorem State.leaveReset_turn (s : State) :
    (s.leaveReset).turn = s.turn := rfl

@[simp] theorem State.leaveReset_pending (s : State) :
    (s.leaveReset).pending = s.pending := rfl

@[simp] theorem State.leaveReset_halves (s : State) :
    (s.leaveReset).halves = s.halves := rfl

@[simp] theorem State.leaveReset_received (s : State) :
    (s.leaveReset).received = s.received := rfl

@[simp] theorem State.leaveReset_nest (s : State) :
    (s.leaveReset).nest = s.nest := rfl

@[simp] theorem State.leaveReset_responseDue (s : State) :
    (s.leaveReset).responseDue = s.responseDue := rfl

@[simp] theorem State.leaveReset_executing (s : State) :
    (s.leaveReset).executing = s.executing := rfl

@[simp] theorem State.leaveReset_acks (s : State) :
    (s.leaveReset).acks = s.acks := rfl

@[simp] theorem State.leaveReset_firstFetchDue (s : State) :
    (s.leaveReset).firstFetchDue = s.firstFetchDue := rfl

@[simp] theorem State.leaveReset_sinceSample (s : State) :
    (s.leaveReset).sinceSample = s.sinceSample := rfl

@[simp] theorem State.leaveReset_events (s : State) :
    (s.leaveReset).events = s.events := rfl

@[simp] theorem State.leaveReset_clock (s : State) :
    (s.leaveReset).clock = s.clock := rfl

@[simp] theorem State.leaveReset_script (s : State) :
    (s.leaveReset).script = s.script := rfl

@[simp] theorem State.leaveReset_program (s : State) :
    (s.leaveReset).program = s.program := rfl

/-! ### `sampleInterrupts` -/

@[simp] theorem State.sampleInterrupts_params (s : State) (i : TInput) :
    (s.sampleInterrupts i).params = s.params := rfl

@[simp] theorem State.sampleInterrupts_regs (s : State) (i : TInput) :
    (s.sampleInterrupts i).regs = s.regs := rfl

@[simp] theorem State.sampleInterrupts_queue (s : State) (i : TInput) :
    (s.sampleInterrupts i).queue = s.queue := rfl

@[simp] theorem State.sampleInterrupts_bus (s : State) (i : TInput) :
    (s.sampleInterrupts i).bus = s.bus := rfl

@[simp] theorem State.sampleInterrupts_rdata (s : State) (i : TInput) :
    (s.sampleInterrupts i).rdata = s.rdata := rfl

@[simp] theorem State.sampleInterrupts_nmiPrev (s : State) (i : TInput) :
    (s.sampleInterrupts i).nmiPrev = i.env.nmi := rfl

@[simp] theorem State.sampleInterrupts_nmiPending (s : State) (i : TInput) :
    (s.sampleInterrupts i).nmiPending = (s.nmiPending || (!s.nmiPrev && i.env.nmi)) := rfl

@[simp] theorem State.sampleInterrupts_intrAccept (s : State) (i : TInput) :
    (s.sampleInterrupts i).intrAccept =
      if i.eu.instrLastClock && !s.responseDue then s.intrAllowed i.env.intr else s.intrAccept := rfl

@[simp] theorem State.sampleInterrupts_waiting (s : State) (i : TInput) :
    (s.sampleInterrupts i).waiting = s.waiting := rfl

@[simp] theorem State.sampleInterrupts_inReset (s : State) (i : TInput) :
    (s.sampleInterrupts i).inReset = s.inReset := rfl

@[simp] theorem State.sampleInterrupts_latch (s : State) (i : TInput) :
    (s.sampleInterrupts i).latch = s.latch := rfl

@[simp] theorem State.sampleInterrupts_mem (s : State) (i : TInput) :
    (s.sampleInterrupts i).mem = s.mem := rfl

@[simp] theorem State.sampleInterrupts_io (s : State) (i : TInput) :
    (s.sampleInterrupts i).io = s.io := rfl

@[simp] theorem State.sampleInterrupts_turn (s : State) (i : TInput) :
    (s.sampleInterrupts i).turn = s.turn := rfl

@[simp] theorem State.sampleInterrupts_pending (s : State) (i : TInput) :
    (s.sampleInterrupts i).pending = s.pending := rfl

@[simp] theorem State.sampleInterrupts_halves (s : State) (i : TInput) :
    (s.sampleInterrupts i).halves = s.halves := rfl

@[simp] theorem State.sampleInterrupts_received (s : State) (i : TInput) :
    (s.sampleInterrupts i).received = s.received := rfl

@[simp] theorem State.sampleInterrupts_nest (s : State) (i : TInput) :
    (s.sampleInterrupts i).nest = s.nest := rfl

@[simp] theorem State.sampleInterrupts_responseDue (s : State) (i : TInput) :
    (s.sampleInterrupts i).responseDue = s.responseDue := rfl

@[simp] theorem State.sampleInterrupts_executing (s : State) (i : TInput) :
    (s.sampleInterrupts i).executing = s.executing := rfl

@[simp] theorem State.sampleInterrupts_acks (s : State) (i : TInput) :
    (s.sampleInterrupts i).acks = s.acks := rfl

@[simp] theorem State.sampleInterrupts_firstFetchDue (s : State) (i : TInput) :
    (s.sampleInterrupts i).firstFetchDue = s.firstFetchDue := rfl

@[simp] theorem State.sampleInterrupts_sinceSample (s : State) (i : TInput) :
    (s.sampleInterrupts i).sinceSample = s.sinceSample := rfl

@[simp] theorem State.sampleInterrupts_events (s : State) (i : TInput) :
    (s.sampleInterrupts i).events = s.events := rfl

@[simp] theorem State.sampleInterrupts_clock (s : State) (i : TInput) :
    (s.sampleInterrupts i).clock = s.clock := rfl

@[simp] theorem State.sampleInterrupts_script (s : State) (i : TInput) :
    (s.sampleInterrupts i).script = s.script := rfl

@[simp] theorem State.sampleInterrupts_program (s : State) (i : TInput) :
    (s.sampleInterrupts i).program = s.program := rfl

/-! ### `receive` -/

@[simp] theorem State.receive_params (s : State) (d : Delivery) :
    (s.receive d).params = s.params := by cases d <;> rfl

@[simp] theorem State.receive_regs (s : State) (d : Delivery) :
    (s.receive d).regs = s.regs := by cases d <;> rfl

@[simp] theorem State.receive_queue (s : State) (d : Delivery) :
    (s.receive d).queue = s.queue := by cases d <;> rfl

@[simp] theorem State.receive_bus (s : State) (d : Delivery) :
    (s.receive d).bus = s.bus := by cases d <;> rfl

@[simp] theorem State.receive_rdata (s : State) (d : Delivery) :
    (s.receive d).rdata = s.rdata := by cases d <;> rfl

@[simp] theorem State.receive_nmiPrev (s : State) (d : Delivery) :
    (s.receive d).nmiPrev = s.nmiPrev := by cases d <;> rfl

@[simp] theorem State.receive_nmiPending (s : State) (d : Delivery) :
    (s.receive d).nmiPending = s.nmiPending := by cases d <;> rfl

@[simp] theorem State.receive_intrAccept (s : State) (d : Delivery) :
    (s.receive d).intrAccept = s.intrAccept := by cases d <;> rfl

@[simp] theorem State.receive_waiting (s : State) (d : Delivery) :
    (s.receive d).waiting = s.waiting := by cases d <;> rfl

@[simp] theorem State.receive_inReset (s : State) (d : Delivery) :
    (s.receive d).inReset = s.inReset := by cases d <;> rfl

@[simp] theorem State.receive_latch (s : State) (d : Delivery) :
    (s.receive d).latch = s.latch := by cases d <;> rfl

@[simp] theorem State.receive_mem (s : State) (d : Delivery) :
    (s.receive d).mem = s.mem := by cases d <;> rfl

@[simp] theorem State.receive_io (s : State) (d : Delivery) :
    (s.receive d).io = s.io := by cases d <;> rfl

@[simp] theorem State.receive_turn (s : State) (d : Delivery) :
    (s.receive d).turn = s.turn := by cases d <;> rfl

@[simp] theorem State.receive_pending (s : State) (d : Delivery) :
    (s.receive d).pending = s.pending := by cases d <;> rfl

@[simp] theorem State.receive_nest (s : State) (d : Delivery) :
    (s.receive d).nest = s.nest := by cases d <;> rfl

@[simp] theorem State.receive_responseDue (s : State) (d : Delivery) :
    (s.receive d).responseDue = s.responseDue := by cases d <;> rfl

@[simp] theorem State.receive_executing (s : State) (d : Delivery) :
    (s.receive d).executing = s.executing := by cases d <;> rfl

@[simp] theorem State.receive_acks (s : State) (d : Delivery) :
    (s.receive d).acks = s.acks := by cases d <;> rfl

@[simp] theorem State.receive_firstFetchDue (s : State) (d : Delivery) :
    (s.receive d).firstFetchDue = s.firstFetchDue := by cases d <;> rfl

@[simp] theorem State.receive_sinceSample (s : State) (d : Delivery) :
    (s.receive d).sinceSample = s.sinceSample := by cases d <;> rfl

@[simp] theorem State.receive_events (s : State) (d : Delivery) :
    (s.receive d).events = s.events := by cases d <;> rfl

@[simp] theorem State.receive_clock (s : State) (d : Delivery) :
    (s.receive d).clock = s.clock := by cases d <;> rfl

@[simp] theorem State.receive_script (s : State) (d : Delivery) :
    (s.receive d).script = s.script := by cases d <;> rfl

@[simp] theorem State.receive_program (s : State) (d : Delivery) :
    (s.receive d).program = s.program := by cases d <;> rfl

/-! ### `euEffects` -/

@[simp] theorem State.euEffects_params (s : State) (w : Bool) (e : EuIn) :
    (s.euEffects w e).params = s.params := by cases w <;> rfl

@[simp] theorem State.euEffects_regs (s : State) (w : Bool) (e : EuIn) :
    (s.euEffects w e).regs = if w then s.regs else s.regs.writeAll e.writes := by cases w <;> rfl

@[simp] theorem State.euEffects_queue (s : State) (w : Bool) (e : EuIn) :
    (s.euEffects w e).queue = if w then s.queue else s.queue.drop e.consume := by cases w <;> rfl

@[simp] theorem State.euEffects_bus (s : State) (w : Bool) (e : EuIn) :
    (s.euEffects w e).bus = s.bus := by cases w <;> rfl

@[simp] theorem State.euEffects_rdata (s : State) (w : Bool) (e : EuIn) :
    (s.euEffects w e).rdata = s.rdata := by cases w <;> rfl

@[simp] theorem State.euEffects_nmiPrev (s : State) (w : Bool) (e : EuIn) :
    (s.euEffects w e).nmiPrev = s.nmiPrev := by cases w <;> rfl

@[simp] theorem State.euEffects_nmiPending (s : State) (w : Bool) (e : EuIn) :
    (s.euEffects w e).nmiPending = s.nmiPending := by cases w <;> rfl

@[simp] theorem State.euEffects_intrAccept (s : State) (w : Bool) (e : EuIn) :
    (s.euEffects w e).intrAccept = s.intrAccept := by cases w <;> rfl

@[simp] theorem State.euEffects_waiting (s : State) (w : Bool) (e : EuIn) :
    (s.euEffects w e).waiting = s.waiting := by cases w <;> rfl

@[simp] theorem State.euEffects_inReset (s : State) (w : Bool) (e : EuIn) :
    (s.euEffects w e).inReset = s.inReset := by cases w <;> rfl

@[simp] theorem State.euEffects_latch (s : State) (w : Bool) (e : EuIn) :
    (s.euEffects w e).latch = s.latch := by cases w <;> rfl

@[simp] theorem State.euEffects_mem (s : State) (w : Bool) (e : EuIn) :
    (s.euEffects w e).mem = s.mem := by cases w <;> rfl

@[simp] theorem State.euEffects_io (s : State) (w : Bool) (e : EuIn) :
    (s.euEffects w e).io = s.io := by cases w <;> rfl

@[simp] theorem State.euEffects_pending (s : State) (w : Bool) (e : EuIn) :
    (s.euEffects w e).pending = s.pending := by cases w <;> rfl

@[simp] theorem State.euEffects_halves (s : State) (w : Bool) (e : EuIn) :
    (s.euEffects w e).halves = s.halves := by cases w <;> rfl

@[simp] theorem State.euEffects_received (s : State) (w : Bool) (e : EuIn) :
    (s.euEffects w e).received = s.received := by cases w <;> rfl

@[simp] theorem State.euEffects_nest (s : State) (w : Bool) (e : EuIn) :
    (s.euEffects w e).nest = s.nest := by cases w <;> rfl

@[simp] theorem State.euEffects_responseDue (s : State) (w : Bool) (e : EuIn) :
    (s.euEffects w e).responseDue = (s.responseDue && !s.cyclesDone) := by cases w <;> rfl

@[simp] theorem State.euEffects_executing (s : State) (w : Bool) (e : EuIn) :
    (s.euEffects w e).executing =
      (s.executing && (s.waiting || s.responseDue || !e.instrLastClock)) := by cases w <;> rfl

@[simp] theorem State.euEffects_acks (s : State) (w : Bool) (e : EuIn) :
    (s.euEffects w e).acks = s.acks := by cases w <;> rfl

@[simp] theorem State.euEffects_firstFetchDue (s : State) (w : Bool) (e : EuIn) :
    (s.euEffects w e).firstFetchDue = s.firstFetchDue := by cases w <;> rfl

@[simp] theorem State.euEffects_sinceSample (s : State) (w : Bool) (e : EuIn) :
    (s.euEffects w e).sinceSample = s.sinceSample := by cases w <;> rfl

@[simp] theorem State.euEffects_events (s : State) (w : Bool) (e : EuIn) :
    (s.euEffects w e).events = s.events := by cases w <;> rfl

@[simp] theorem State.euEffects_clock (s : State) (w : Bool) (e : EuIn) :
    (s.euEffects w e).clock = s.clock := by cases w <;> rfl

@[simp] theorem State.euEffects_script (s : State) (w : Bool) (e : EuIn) :
    (s.euEffects w e).script = s.script := by cases w <;> rfl

@[simp] theorem State.euEffects_program (s : State) (w : Bool) (e : EuIn) :
    (s.euEffects w e).program = s.program := by cases w <;> rfl

/-- Whether the instruction's bus cycles have run depends on nothing EU writes. -/
@[simp] theorem State.euEffects_cyclesDone (s : State) (w : Bool) (e : EuIn) :
    (s.euEffects w e).cyclesDone = s.cyclesDone := by cases w <;> rfl

/-! ### `holdResponse` -/

@[simp] theorem State.holdResponse_params (s : State) : s.holdResponse.params = s.params := rfl

@[simp] theorem State.holdResponse_regs (s : State) : s.holdResponse.regs = s.regs := rfl

@[simp] theorem State.holdResponse_queue (s : State) : s.holdResponse.queue = s.queue := rfl

@[simp] theorem State.holdResponse_bus (s : State) : s.holdResponse.bus = s.bus := rfl

@[simp] theorem State.holdResponse_rdata (s : State) : s.holdResponse.rdata = s.rdata := rfl

@[simp] theorem State.holdResponse_nmiPrev (s : State) :
    s.holdResponse.nmiPrev = s.nmiPrev := rfl

@[simp] theorem State.holdResponse_nmiPending (s : State) :
    s.holdResponse.nmiPending = s.nmiPending := rfl

@[simp] theorem State.holdResponse_intrAccept (s : State) :
    s.holdResponse.intrAccept = (s.intrAccept && !s.waiting) := rfl

@[simp] theorem State.holdResponse_waiting (s : State) :
    s.holdResponse.waiting = s.waiting := rfl

@[simp] theorem State.holdResponse_inReset (s : State) :
    s.holdResponse.inReset = s.inReset := rfl

@[simp] theorem State.holdResponse_latch (s : State) : s.holdResponse.latch = s.latch := rfl

@[simp] theorem State.holdResponse_mem (s : State) : s.holdResponse.mem = s.mem := rfl

@[simp] theorem State.holdResponse_io (s : State) : s.holdResponse.io = s.io := rfl

@[simp] theorem State.holdResponse_turn (s : State) : s.holdResponse.turn = s.turn := rfl

@[simp] theorem State.holdResponse_pending (s : State) :
    s.holdResponse.pending = s.pending := rfl

@[simp] theorem State.holdResponse_halves (s : State) : s.holdResponse.halves = s.halves := rfl

@[simp] theorem State.holdResponse_received (s : State) :
    s.holdResponse.received = s.received := rfl

@[simp] theorem State.holdResponse_nest (s : State) : s.holdResponse.nest = s.nest := rfl

@[simp] theorem State.holdResponse_responseDue (s : State) :
    s.holdResponse.responseDue = !s.waiting := rfl

@[simp] theorem State.holdResponse_executing (s : State) :
    s.holdResponse.executing = s.executing := rfl

@[simp] theorem State.holdResponse_acks (s : State) : s.holdResponse.acks = s.acks := rfl

@[simp] theorem State.holdResponse_firstFetchDue (s : State) :
    s.holdResponse.firstFetchDue = s.firstFetchDue := rfl

@[simp] theorem State.holdResponse_sinceSample (s : State) :
    s.holdResponse.sinceSample = s.sinceSample := rfl

@[simp] theorem State.holdResponse_events (s : State) : s.holdResponse.events = s.events := rfl

@[simp] theorem State.holdResponse_clock (s : State) : s.holdResponse.clock = s.clock := rfl

@[simp] theorem State.holdResponse_script (s : State) : s.holdResponse.script = s.script := rfl

@[simp] theorem State.holdResponse_program (s : State) :
    s.holdResponse.program = s.program := rfl

/-! ### `abandonCycle` -/

@[simp] theorem State.abandonCycle_params (s : State) :
    (s.abandonCycle).params = s.params := by
  unfold State.abandonCycle; split <;> [rfl; (split <;> rfl)]

@[simp] theorem State.abandonCycle_regs (s : State) :
    (s.abandonCycle).regs = s.regs := by
  unfold State.abandonCycle; split <;> [rfl; (split <;> rfl)]

@[simp] theorem State.abandonCycle_queue (s : State) :
    (s.abandonCycle).queue = s.queue := by
  unfold State.abandonCycle; split <;> [rfl; (split <;> rfl)]

@[simp] theorem State.abandonCycle_bus (s : State) :
    (s.abandonCycle).bus = s.bus := by
  unfold State.abandonCycle; split <;> [rfl; (split <;> rfl)]

@[simp] theorem State.abandonCycle_rdata (s : State) :
    (s.abandonCycle).rdata = s.rdata := by
  unfold State.abandonCycle; split <;> [rfl; (split <;> rfl)]

@[simp] theorem State.abandonCycle_nmiPrev (s : State) :
    (s.abandonCycle).nmiPrev = s.nmiPrev := by
  unfold State.abandonCycle; split <;> [rfl; (split <;> rfl)]

@[simp] theorem State.abandonCycle_nmiPending (s : State) :
    (s.abandonCycle).nmiPending = s.nmiPending := by
  unfold State.abandonCycle; split <;> [rfl; (split <;> rfl)]

@[simp] theorem State.abandonCycle_intrAccept (s : State) :
    (s.abandonCycle).intrAccept = s.intrAccept := by
  unfold State.abandonCycle; split <;> [rfl; (split <;> rfl)]

@[simp] theorem State.abandonCycle_waiting (s : State) :
    (s.abandonCycle).waiting = s.waiting := by
  unfold State.abandonCycle; split <;> [rfl; (split <;> rfl)]

@[simp] theorem State.abandonCycle_inReset (s : State) :
    (s.abandonCycle).inReset = s.inReset := by
  unfold State.abandonCycle; split <;> [rfl; (split <;> rfl)]

@[simp] theorem State.abandonCycle_latch (s : State) :
    (s.abandonCycle).latch = s.latch := by
  unfold State.abandonCycle; split <;> [rfl; (split <;> rfl)]

@[simp] theorem State.abandonCycle_turn (s : State) :
    (s.abandonCycle).turn = s.turn := by
  unfold State.abandonCycle; split <;> [rfl; (split <;> rfl)]

@[simp] theorem State.abandonCycle_pending (s : State) :
    (s.abandonCycle).pending = s.pending := by
  unfold State.abandonCycle; split <;> [rfl; (split <;> rfl)]

@[simp] theorem State.abandonCycle_halves (s : State) :
    (s.abandonCycle).halves = s.halves := by
  unfold State.abandonCycle; split <;> [rfl; (split <;> rfl)]

@[simp] theorem State.abandonCycle_received (s : State) :
    (s.abandonCycle).received = s.received := by
  unfold State.abandonCycle; split <;> [rfl; (split <;> rfl)]

@[simp] theorem State.abandonCycle_nest (s : State) :
    (s.abandonCycle).nest = s.nest := by
  unfold State.abandonCycle; split <;> [rfl; (split <;> rfl)]

@[simp] theorem State.abandonCycle_responseDue (s : State) :
    (s.abandonCycle).responseDue = s.responseDue := by
  unfold State.abandonCycle; split <;> [rfl; (split <;> rfl)]

@[simp] theorem State.abandonCycle_executing (s : State) :
    (s.abandonCycle).executing = s.executing := by
  unfold State.abandonCycle; split <;> [rfl; (split <;> rfl)]

@[simp] theorem State.abandonCycle_acks (s : State) :
    (s.abandonCycle).acks = s.acks := by
  unfold State.abandonCycle; split <;> [rfl; (split <;> rfl)]

@[simp] theorem State.abandonCycle_firstFetchDue (s : State) :
    (s.abandonCycle).firstFetchDue = s.firstFetchDue := by
  unfold State.abandonCycle; split <;> [rfl; (split <;> rfl)]

@[simp] theorem State.abandonCycle_sinceSample (s : State) :
    (s.abandonCycle).sinceSample = s.sinceSample := by
  unfold State.abandonCycle; split <;> [rfl; (split <;> rfl)]

@[simp] theorem State.abandonCycle_events (s : State) :
    (s.abandonCycle).events = s.events := by
  unfold State.abandonCycle; split <;> [rfl; (split <;> rfl)]

@[simp] theorem State.abandonCycle_clock (s : State) :
    (s.abandonCycle).clock = s.clock := by
  unfold State.abandonCycle; split <;> [rfl; (split <;> rfl)]

@[simp] theorem State.abandonCycle_script (s : State) :
    (s.abandonCycle).script = s.script := by
  unfold State.abandonCycle; split <;> [rfl; (split <;> rfl)]

@[simp] theorem State.abandonCycle_program (s : State) :
    (s.abandonCycle).program = s.program := by
  unfold State.abandonCycle; split <;> [rfl; (split <;> rfl)]

/-! ### `resetStep` -/

@[simp] theorem State.resetStep_params (s : State) (e : Env) :
    (s.resetStep e).params = s.params := by unfold State.resetStep; cases s.inReset <;> simp

@[simp] theorem State.resetStep_regs (s : State) (e : Env) :
    (s.resetStep e).regs = Regs.atReset := by unfold State.resetStep; cases s.inReset <;> simp

@[simp] theorem State.resetStep_queue (s : State) (e : Env) :
    (s.resetStep e).queue = [] := by unfold State.resetStep; cases s.inReset <;> simp

@[simp] theorem State.resetStep_bus (s : State) (e : Env) :
    (s.resetStep e).bus = .idle := by unfold State.resetStep; cases s.inReset <;> simp

@[simp] theorem State.resetStep_rdata (s : State) (e : Env) :
    (s.resetStep e).rdata = s.rdata := by unfold State.resetStep; cases s.inReset <;> simp

@[simp] theorem State.resetStep_nmiPrev (s : State) (e : Env) :
    (s.resetStep e).nmiPrev = e.nmi := by unfold State.resetStep; cases s.inReset <;> simp

@[simp] theorem State.resetStep_nmiPending (s : State) (e : Env) :
    (s.resetStep e).nmiPending = false := by unfold State.resetStep; cases s.inReset <;> simp

@[simp] theorem State.resetStep_intrAccept (s : State) (e : Env) :
    (s.resetStep e).intrAccept = false := by unfold State.resetStep; cases s.inReset <;> simp

@[simp] theorem State.resetStep_waiting (s : State) (e : Env) :
    (s.resetStep e).waiting = false := by unfold State.resetStep; cases s.inReset <;> simp

@[simp] theorem State.resetStep_inReset (s : State) (e : Env) :
    (s.resetStep e).inReset = true := by unfold State.resetStep; cases s.inReset <;> simp

@[simp] theorem State.resetStep_latch (s : State) (e : Env) :
    (s.resetStep e).latch = s.latch := by unfold State.resetStep; cases s.inReset <;> simp

@[simp] theorem State.resetStep_mem (s : State) (e : Env) :
    (s.resetStep e).mem = if s.inReset then s.mem else s.abandonCycle.mem := by unfold State.resetStep; cases s.inReset <;> simp

@[simp] theorem State.resetStep_io (s : State) (e : Env) :
    (s.resetStep e).io = if s.inReset then s.io else s.abandonCycle.io := by unfold State.resetStep; cases s.inReset <;> simp

@[simp] theorem State.resetStep_turn (s : State) (e : Env) :
    (s.resetStep e).turn = .bus := by unfold State.resetStep; cases s.inReset <;> simp

@[simp] theorem State.resetStep_pending (s : State) (e : Env) :
    (s.resetStep e).pending = [] := by unfold State.resetStep; cases s.inReset <;> simp

@[simp] theorem State.resetStep_halves (s : State) (e : Env) :
    (s.resetStep e).halves = [] := by unfold State.resetStep; cases s.inReset <;> simp

@[simp] theorem State.resetStep_received (s : State) (e : Env) :
    (s.resetStep e).received = s.received := by unfold State.resetStep; cases s.inReset <;> simp

@[simp] theorem State.resetStep_nest (s : State) (e : Env) :
    (s.resetStep e).nest = [] := by unfold State.resetStep; cases s.inReset <;> simp

@[simp] theorem State.resetStep_responseDue (s : State) (e : Env) :
    (s.resetStep e).responseDue = false := by unfold State.resetStep; cases s.inReset <;> simp

@[simp] theorem State.resetStep_executing (s : State) (e : Env) :
    (s.resetStep e).executing = false := by unfold State.resetStep; cases s.inReset <;> simp

@[simp] theorem State.resetStep_acks (s : State) (e : Env) :
    (s.resetStep e).acks = [] := by unfold State.resetStep; cases s.inReset <;> simp

@[simp] theorem State.resetStep_firstFetchDue (s : State) (e : Env) :
    (s.resetStep e).firstFetchDue = true := by unfold State.resetStep; cases s.inReset <;> simp

@[simp] theorem State.resetStep_sinceSample (s : State) (e : Env) :
    (s.resetStep e).sinceSample = 0 := by unfold State.resetStep; cases s.inReset <;> simp

@[simp] theorem State.resetStep_events (s : State) (e : Env) :
    (s.resetStep e).events = if s.inReset then s.events else .reset :: s.events := by
  unfold State.resetStep; cases s.inReset <;> rfl

@[simp] theorem State.resetStep_clock (s : State) (e : Env) :
    (s.resetStep e).clock = s.clock := by unfold State.resetStep; cases s.inReset <;> simp

@[simp] theorem State.resetStep_script (s : State) (e : Env) :
    (s.resetStep e).script = s.script := by unfold State.resetStep; cases s.inReset <;> simp

@[simp] theorem State.resetStep_program (s : State) (e : Env) :
    (s.resetStep e).program = s.program := by unfold State.resetStep; cases s.inReset <;> simp

end Sys2Proof.Machine
end

