-- ==== Sys2Proof/Laws/Encoding.lean ====
section
/-!
SUPPORT. The T1 word: its bits, its value, and that its two parts are the address and BHE.
-/

namespace Sys2Proof

/-- Each bit of the T1 word: bits 19 to 0 are the address, bit 20 is BHE (R84). -/
theorem t1Word_getLsbD (bhe : Bool) (a : Addr) (i : Nat) :
    (t1Word bhe a).getLsbD i = if i < 20 then a.getLsbD i else (decide (i = 20) && bhe) := by
  rw [t1Word, BitVec.getLsbD_append]
  by_cases h : i < 20
  · simp [h]
  · rw [if_neg h, BitVec.getLsbD_ofBool]
    simp [h, show (i - 20 = 0) ↔ (i = 20) by omega]

theorem t1Bhe_t1Word (bhe : Bool) (a : Addr) : t1Bhe (t1Word bhe a) = bhe := by
  rw [t1Bhe, t1Word_getLsbD]; simp

theorem t1Addr_t1Word (bhe : Bool) (a : Addr) : t1Addr (t1Word bhe a) = a := by
  apply BitVec.eq_of_getLsbD_eq
  intro i hi
  rw [t1Addr, BitVec.getLsbD_extractLsb', t1Word_getLsbD]
  simp [hi]

/-- A T1 word is made of its BHE and its address. -/
theorem t1Word_split (w : T1Word) : t1Word (t1Bhe w) (t1Addr w) = w := by
  apply BitVec.eq_of_getLsbD_eq
  intro i hi
  rw [t1Word_getLsbD]
  by_cases h : i < 20
  · rw [if_pos h, t1Addr, BitVec.getLsbD_extractLsb']; simp [h]
  · obtain rfl : i = 20 := by omega
    simp [t1Bhe]

theorem t1Word_toNat (bhe : Bool) (a : Addr) :
    (t1Word bhe a).toNat = (if bhe then 2 ^ 20 else 0) + a.toNat := by
  rw [t1Word, BitVec.toNat_append]
  have := a.isLt
  cases bhe
  · simp
  · rw [show (BitVec.ofBool true).toNat = 1 by decide, Nat.shiftLeft_eq, Nat.mul_comm,
      ← Nat.two_pow_add_eq_or_of_lt this]
    simp

/-- The mask 100001H selects the transfer code BHE AD0 (R84). -/
theorem t1Word_mask (bhe : Bool) (a : Addr) :
    t1Word bhe a &&& 0x100001 =
      (if bhe then 0x100000 else 0) ||| (if a.getLsbD 0 then 1 else 0) := by
  apply BitVec.eq_of_getLsbD_eq
  intro i hi
  have hm : ∀ j : Fin 21, (0x100001 : T1Word).getLsbD j.val =
      decide (j.val = 20 ∨ j.val = 0) := by decide
  have h1 : ∀ j : Fin 21, (if bhe then 0x100000 else 0 : T1Word).getLsbD j.val =
      (decide (j.val = 20) && bhe) := by
    cases bhe
    · intro j; simp
    · decide
  have h2 : ∀ j : Fin 21, (if a.getLsbD 0 then 1 else 0 : T1Word).getLsbD j.val =
      (decide (j.val = 0) && a.getLsbD 0) := by
    cases a.getLsbD 0
    · intro j; simp
    · decide
  rw [BitVec.getLsbD_and, t1Word_getLsbD, BitVec.getLsbD_or, hm ⟨i, hi⟩, h1 ⟨i, hi⟩, h2 ⟨i, hi⟩]
  by_cases h20 : i = 20
  · subst h20; simp
  · by_cases h0 : i = 0
    · subst h0; simp only [Nat.zero_lt_succ, if_true]; simp
    · simp [h20, h0]

/-- The row of a request and its instruction: the transfer code resolved by what EU knows (R160). -/
theorem Request.instr_eq (r : Request) :
    r.instr =
      match r.bhe, r.addr.getLsbD 0 with
      | false, false => some (.xferWEven r.addr r.op)
      | true, false =>
        match r.half with
        | some d => some (.xferWOdd2 r.addr ⟨r.op, d⟩)
        | none => some (.xferBEven r.addr r.op)
      | false, true =>
        match r.half with
        | some d => some (.xferWOdd1 r.addr ⟨r.op, d⟩)
        | none => some (.xferBOdd r.addr r.op)
      | true, true => none := by
  rw [Request.instr, decodeT1, t1Bhe_t1Word, t1Addr_t1Word]
  cases r.bhe <;> cases r.addr.getLsbD 0 <;> cases r.half <;> rfl

end Sys2Proof
end

