-- ==== Sys2Proof/Laws/Memory.lean ====
section
/-!
SUPPORT. The laws of memory: a read after a write, and the canonical form.
-/

namespace Sys2Proof.Machine

/-- Below every listed address a memory reads as the default. -/
theorem Memory.read_below {m : Memory} {lo a : Nat} (h : Memory.wfAbove lo m = true) (ha : a < lo) :
    m.read a = Config.unwrittenByte := by
  induction m generalizing lo with
  | nil => rfl
  | cons c m ih =>
    obtain ⟨b, v⟩ := c
    simp only [Memory.wfAbove, Bool.and_eq_true, decide_eq_true_eq] at h
    obtain ⟨⟨hb, -⟩, hm⟩ := h
    have : a ≠ b := by omega
    simp [Memory.read, this, ih hm (by omega)]

theorem Memory.wfAbove_mono {m : Memory} {lo lo' : Nat} (h : Memory.wfAbove lo m = true)
    (hl : lo' ≤ lo) : Memory.wfAbove lo' m = true := by
  cases m with
  | nil => rfl
  | cons c m =>
    simp only [Memory.wfAbove, Bool.and_eq_true, decide_eq_true_eq] at h ⊢
    exact ⟨⟨by omega, h.1.2⟩, h.2⟩

theorem Memory.write_wfAbove {m : Memory} {lo a : Nat} (v : Byte)
    (h : Memory.wfAbove lo m = true) (ha : lo ≤ a) : Memory.wfAbove lo (m.write a v) = true := by
  induction m generalizing lo with
  | nil =>
    simp only [Memory.write]
    split
    · rfl
    · simp_all [Memory.wfAbove]
  | cons c m ih =>
    obtain ⟨b, w⟩ := c
    have h' := h
    simp only [Memory.wfAbove, Bool.and_eq_true, decide_eq_true_eq, bne_iff_ne, ne_eq] at h
    obtain ⟨⟨hb, hw⟩, hm⟩ := h
    simp only [Memory.write]
    split
    · split
      · exact h'
      · simp [Memory.wfAbove, *]
    · split
      · split
        · exact Memory.wfAbove_mono hm (by omega)
        · simp_all [Memory.wfAbove]
      · simp [Memory.wfAbove, hb, hw, ih hm (by omega)]

/-- Every store keeps the canonical form. -/
theorem Memory.write_wf {m : Memory} (a : Nat) (v : Byte) (h : m.wf = true) :
    (m.write a v).wf = true :=
  Memory.write_wfAbove v h (Nat.zero_le a)

/-- In a memory in canonical form, a store changes the byte stored and no other. -/
theorem Memory.read_write {m : Memory} {lo : Nat} (h : Memory.wfAbove lo m = true) (a b : Nat)
    (v : Byte) : (m.write a v).read b = if b = a then v else m.read b := by
  induction m generalizing lo with
  | nil =>
    simp only [Memory.write]
    split <;> split <;> simp_all [Memory.read]
  | cons c m ih =>
    obtain ⟨k, w⟩ := c
    simp only [Memory.wfAbove, Bool.and_eq_true, decide_eq_true_eq] at h
    obtain ⟨⟨hk, -⟩, hm⟩ := h
    have below : ∀ x, x < k + 1 → Memory.read m x = Config.unwrittenByte :=
      fun x hx => Memory.read_below hm hx
    simp only [Memory.write]
    by_cases h1 : a < k
    · by_cases hv : v = Config.unwrittenByte
      · by_cases hb : b = a
        · subst hb
          have : b ≠ k := by omega
          simp [h1, hv, Memory.read, this, below b (by omega)]
        · simp [h1, hv, hb]
      · simp [h1, hv, Memory.read]
    · by_cases h2 : a = k
      · subst h2
        by_cases hv : v = Config.unwrittenByte
        · by_cases hb : b = a
          · subst hb; simp [hv, below b (by omega)]
          · simp [hv, hb, Memory.read]
        · by_cases hb : b = a <;> simp [hv, hb, Memory.read]
      · by_cases hb : b = k
        · subst hb
          have : ¬ b = a := fun e => h2 e.symm
          simp [h1, h2, Memory.read, this]
        · simp [h1, h2, Memory.read, hb, ih hm]

theorem Memory.read_write_same {m : Memory} (h : m.wf = true) (a : Nat) (v : Byte) :
    (m.write a v).read a = v := by simp [Memory.read_write h]

theorem Memory.read_write_other {m : Memory} (h : m.wf = true) {a b : Nat} (v : Byte) (hb : b ≠ a) :
    (m.write a v).read b = m.read b := by simp [Memory.read_write h, hb]

theorem Memory.writeAll_wf {m : Memory} (cells : List (Addr × Byte)) (h : m.wf = true) :
    (m.writeAll cells).wf = true := by
  induction cells generalizing m with
  | nil => exact h
  | cons c cells ih => exact ih (Memory.write_wf _ _ h)

theorem Memory.foldl_writeIfTaken_wf {m : Memory} (t : Nat) (l : List (Nat × Addr × Byte))
    (h : m.wf = true) : (l.foldl (Memory.writeIfTaken t) m).wf = true := by
  induction l generalizing m with
  | nil => exact h
  | cons c l ih =>
    refine ih ?_
    unfold Memory.writeIfTaken
    split
    · exact Memory.write_wf _ _ h
    · exact h

/-- RESET's abandoning of a write keeps both memories in canonical form. -/
theorem State.abandonCycle_wf {s : State} (hm : s.mem.wf = true) (hi : s.io.wf = true) :
    s.abandonCycle.mem.wf = true ∧ s.abandonCycle.io.wf = true := by
  unfold State.abandonCycle
  split
  · exact ⟨hm, hi⟩
  · split
    · exact ⟨Memory.foldl_writeIfTaken_wf _ _ hm, hi⟩
    · exact ⟨hm, Memory.foldl_writeIfTaken_wf _ _ hi⟩
    · exact ⟨hm, hi⟩

end Sys2Proof.Machine
end

