-- ==== Sys2Proof/Laws/Transfer.lean ====
section
/-!
SUPPORT. Everything the shared halves of a transfer can do, and what follows for every
instruction: later proofs cite these and do not unfold the meanings.
-/

namespace Sys2Proof.Machine

/-- All a bus write can do, if it gives a next state. -/
theorem State.busWrite_next {s t : State} {op : BusOp} {cells : List (Addr × Byte)}
    (h : s.busWrite op cells = .next t) :
    (opSpace op = .mem ∧ (cells.any fun c => s.queued c.1) = false ∧
      t = { s with mem := s.mem.writeAll cells }) ∨
    (opSpace op = .io ∧ t = { s with io := s.io.writeAll cells }) ∨
    (opSpace op = .intAck ∧ t = s) := by
  unfold State.busWrite at h
  split at h
  · next ho =>
    split at h
    · cases h
    · next hq => exact .inl ⟨ho, by simpa using hq, by cases h; rfl⟩
  · next ho =>
    split at h
    · exact .inr (.inl ⟨ho, by cases h; rfl⟩)
    · cases h
  · next ho => exact .inr (.inr ⟨ho, by cases h; rfl⟩)

/-- All a bus read can do, if it gives a next state. -/
theorem State.busRead_next {s t : State} {op : BusOp} {bytes : List QByte} {r : Word}
    {d : Delivery} (h : s.busRead op bytes r d = .next t) :
    (opPurpose op = .fetch ∧ s.queue.length + bytes.length ≤ s.params.queueLen ∧
      t = { s with rdata := r, queue := s.queue ++ bytes }) ∨
    (opPurpose op = .data ∧ t = { s with rdata := r }.receive d) ∨
    (opPurpose op = .ack ∧ t = { s with rdata := r, acks := s.acks.tail }.receive d) := by
  unfold State.busRead at h
  split at h
  · split at h
    · next hp =>
      split at h
      · next hl => exact .inl ⟨hp, hl, by cases h; rfl⟩
      · cases h
    · next hp => exact .inr (.inl ⟨hp, by cases h; rfl⟩)
    · next hp => exact .inr (.inr ⟨hp, by cases h; rfl⟩)
  · cases h

/-- The first half of an odd-address word is the low byte of its datum until the second (R154). -/
@[simp] theorem State.lowOf_lowHalf (s : State) (d : DatumId) (b : Byte) :
    (s.receive (.lowHalf d b)).lowOf d = b := by
  simp [State.receive, State.lowOf]

@[simp] theorem State.lowOf_setRdata (s : State) (r : Word) (d : DatumId) :
    State.lowOf { s with rdata := r } d = s.lowOf d := rfl

@[simp] theorem State.lowOf_setAcks (s : State) (l : List Word) (d : DatumId) :
    State.lowOf { s with acks := l } d = s.lowOf d := rfl

@[simp] theorem State.lowOf_setReceived (s : State) (r : Received) (d : DatumId) :
    State.lowOf { s with received := r } d = s.lowOf d := rfl

/-- Dropping one datum's half leaves the halves of the others. -/
theorem find_otherHalves (s : State) {d d' : DatumId} (h : d' ≠ d) :
    ((s.otherHalves d).find? fun x => x.datum == d') = s.halves.find? fun x => x.datum == d' := by
  unfold State.otherHalves
  induction s.halves with
  | nil => rfl
  | cons x l ih =>
    by_cases hx : x.datum = d
    · simp [hx, ih, Ne.symm h]
    · simp [hx, ih, List.find?_cons]

/-- What a read delivers for one datum leaves the low bytes of the others (R155). -/
theorem State.lowOf_receive (s : State) (del : Delivery) (d : DatumId)
    (h : ∀ d' b, del = .lowHalf d' b ∨ del = .highHalf d' b → d ≠ d') :
    (s.receive del).lowOf d = s.lowOf d := by
  cases del with
  | byte b => rfl
  | word w => rfl
  | lowHalf d' b =>
    have hd := h d' b (.inl rfl)
    simp only [State.receive, State.lowOf, List.find?_cons]
    rw [find_otherHalves s hd, show ((d' == d) = false) by simpa using Ne.symm hd]
  | highHalf d' b =>
    have hd := h d' b (.inr rfl)
    simp only [State.receive, State.lowOf]
    rw [find_otherHalves s hd]

/-- A transfer is a bus write of its bytes or a bus read. -/
inductive Transfers (s : State) (op : BusOp) : Out → Prop where
  | write (w : Word) (cells : List (Addr × Byte)) (hw : opWdata op = some w) :
      Transfers s op (s.busWrite op cells)
  | read (bytes : List QByte) (r : Word) (d : Delivery) (hw : opWdata op = none) :
      Transfers s op (s.busRead op bytes r d)
  | topWord : Transfers s op (.refused .wordAtTopOfMemory)

theorem execXferWEven_transfers (a : Addr) (op : BusOp) (s : State) :
    Transfers s op (execXferWEven a op s) := by
  unfold execXferWEven
  split
  · next w hw => exact .write w _ hw
  · next hw => exact .read _ _ _ hw

theorem execXferBEven_transfers (a : Addr) (op : BusOp) (s : State) :
    Transfers s op (execXferBEven a op s) := by
  unfold execXferBEven
  split
  · next w hw => exact .write w _ hw
  · next hw => exact .read _ _ _ hw

theorem execXferBOdd_transfers (a : Addr) (op : BusOp) (s : State) :
    Transfers s op (execXferBOdd a op s) := by
  unfold execXferBOdd
  split
  · next w hw => exact .write w _ hw
  · next hw => exact .read _ _ _ hw

theorem execXferWOdd1_transfers (a : Addr) (h : HalfOp) (s : State) :
    Transfers s h.op (execXferWOdd1 a h s) := by
  unfold execXferWOdd1
  split
  · exact .topWord
  · split
    · next w hw => exact .write w _ hw
    · next hw => exact .read _ _ _ hw

theorem execXferWOdd2_transfers (a : Addr) (h : HalfOp) (s : State) :
    Transfers s h.op (execXferWOdd2 a h s) := by
  unfold execXferWOdd2
  split
  · next w hw => exact .write w _ hw
  · next hw => exact .read _ _ _ hw

/-- Every next state of a transfer, in one disjunction. -/
theorem Transfers.next {s t : State} {op : BusOp} {o : Out} (h : Transfers s op o)
    (ho : o = .next t) :
    (∃ w cells, opWdata op = some w ∧ opSpace op = .mem ∧
      t = { s with mem := s.mem.writeAll cells }) ∨
    (∃ w cells, opWdata op = some w ∧ opSpace op = .io ∧
      t = { s with io := s.io.writeAll cells }) ∨
    (∃ bytes r, opWdata op = none ∧ opPurpose op = .fetch ∧
      s.queue.length + bytes.length ≤ s.params.queueLen ∧
      t = { s with rdata := r, queue := s.queue ++ bytes }) ∨
    (∃ r d, opWdata op = none ∧ opPurpose op = .data ∧ t = { s with rdata := r }.receive d) ∨
    (∃ r d, opWdata op = none ∧ opPurpose op = .ack ∧
      t = { s with rdata := r, acks := s.acks.tail }.receive d) := by
  cases h with
  | write w cells hw =>
    rcases State.busWrite_next ho with ⟨hs, -, ht⟩ | ⟨hs, ht⟩ | ⟨hs, -⟩
    · exact .inl ⟨w, cells, hw, hs, ht⟩
    · exact .inr (.inl ⟨w, cells, hw, hs, ht⟩)
    · cases op <;> simp_all [opSpace, opWdata]
  | read bytes r d hw =>
    rcases State.busRead_next ho with ⟨hp, hl, ht⟩ | ⟨hp, ht⟩ | ⟨hp, ht⟩
    · exact .inr (.inr (.inl ⟨bytes, r, hw, hp, hl, ht⟩))
    · exact .inr (.inr (.inr (.inl ⟨r, d, hw, hp, ht⟩)))
    · exact .inr (.inr (.inr (.inr ⟨r, d, hw, hp, ht⟩)))
  | topWord => cases ho

/-- Every next state of every instruction. -/
theorem exec_next {i : Instr} {s t : State} (h : exec i s = .next t) :
    (i = .wait ∧ t = s.beginWait) ∨
    (∃ cells, t = { s with mem := s.mem.writeAll cells }) ∨
    (∃ cells, t = { s with io := s.io.writeAll cells }) ∨
    (∃ bytes r, s.queue.length + bytes.length ≤ s.params.queueLen ∧
      t = { s with rdata := r, queue := s.queue ++ bytes }) ∨
    (∃ r d acks, t = { s with rdata := r, acks := acks }.receive d) := by
  have key : ∀ op o, Transfers s op o → o = .next t →
      (∃ cells, t = { s with mem := s.mem.writeAll cells }) ∨
      (∃ cells, t = { s with io := s.io.writeAll cells }) ∨
      (∃ bytes r, s.queue.length + bytes.length ≤ s.params.queueLen ∧
        t = { s with rdata := r, queue := s.queue ++ bytes }) ∨
      (∃ r d acks, t = { s with rdata := r, acks := acks }.receive d) := by
    intro op o ho hn
    rcases ho.next hn with ⟨-, c, -, -, e⟩ | ⟨-, c, -, -, e⟩ | ⟨b, r, -, -, l, e⟩ |
      ⟨r, d, -, -, e⟩ | ⟨r, d, -, -, e⟩
    · exact .inl ⟨c, e⟩
    · exact .inr (.inl ⟨c, e⟩)
    · exact .inr (.inr (.inl ⟨b, r, l, e⟩))
    · exact .inr (.inr (.inr ⟨r, d, s.acks, e⟩))
    · exact .inr (.inr (.inr ⟨r, d, _, e⟩))
  cases i with
  | xferWEven a op => exact .inr (key op _ (execXferWEven_transfers a op s) h)
  | xferBEven a op => exact .inr (key op _ (execXferBEven_transfers a op s) h)
  | xferBOdd a op => exact .inr (key op _ (execXferBOdd_transfers a op s) h)
  | xferWOdd1 a op => exact .inr (key op.op _ (execXferWOdd1_transfers a op s) h)
  | xferWOdd2 a op => exact .inr (key op.op _ (execXferWOdd2_transfers a op s) h)
  | wait => exact .inl ⟨rfl, by cases h; rfl⟩

/-- What no instruction writes. -/
structure ExecFrame (s t : State) : Prop where
  params : t.params = s.params
  regs : t.regs = s.regs
  bus : t.bus = s.bus
  nmiPrev : t.nmiPrev = s.nmiPrev
  nmiPending : t.nmiPending = s.nmiPending
  intrAccept : t.intrAccept = s.intrAccept
  inReset : t.inReset = s.inReset
  latch : t.latch = s.latch
  turn : t.turn = s.turn
  pending : t.pending = s.pending
  nest : t.nest = s.nest
  responseDue : t.responseDue = s.responseDue
  executing : t.executing = s.executing
  firstFetchDue : t.firstFetchDue = s.firstFetchDue
  events : t.events = s.events
  clock : t.clock = s.clock
  script : t.script = s.script
  program : t.program = s.program

theorem exec_frame {i : Instr} {s t : State} (h : exec i s = .next t) : ExecFrame s t := by
  rcases exec_next h with ⟨-, rfl⟩ | ⟨c, rfl⟩ | ⟨c, rfl⟩ | ⟨b, r, -, rfl⟩ | ⟨r, d, k, rfl⟩ <;>
    constructor <;> simp

/-- Every instruction keeps the memories in canonical form and the queue within its length. -/
theorem exec_wf {i : Instr} {s t : State} (h : exec i s = .next t) (hm : s.mem.wf = true)
    (hi : s.io.wf = true) (hq : s.queue.length ≤ s.params.queueLen) :
    t.mem.wf = true ∧ t.io.wf = true ∧ t.queue.length ≤ t.params.queueLen := by
  rcases exec_next h with ⟨-, rfl⟩ | ⟨c, rfl⟩ | ⟨c, rfl⟩ | ⟨b, r, hl, rfl⟩ | ⟨r, d, k, rfl⟩
  · exact ⟨hm, hi, hq⟩
  · exact ⟨Memory.writeAll_wf c hm, hi, hq⟩
  · exact ⟨hm, Memory.writeAll_wf c hi, hq⟩
  · exact ⟨hm, hi, by simpa using hl⟩
  · exact ⟨by simpa using hm, by simpa using hi, by simpa using hq⟩

end Sys2Proof.Machine
end

