-- ==== Sys2Proof/Laws/Step.lean ====
section
/-!
SUPPORT. What a step can do, said once for each part of it: later proofs cite these inversion
lemmas and do not unfold the step.
-/

namespace Sys2Proof.Machine

theorem Out.andThen_next {o : Out} {f : State → Out} {t : State} :
    o.andThen f = .next t ↔ ∃ s, o = .next s ∧ f s = .next t := by
  cases o <;> simp [Out.andThen]

/-- What part 3 of `Step`, the wait, can do. -/
theorem State.waitStep_next {s t : State} {i : TInput} (h : s.waitStep i = .next t) :
    (s.waiting = false ∧ t = s) ∨
    (s.waiting = true ∧ (s.nmiPending || s.intrAllowed i.env.intr) = true ∧
      s.params.waitInterruptible = true ∧
      t = { s with
        intrAccept := s.intrAllowed i.env.intr
        turn := .instrEnd
        waiting := i.env.test || !s.testSampled
        sinceSample := if s.testSampled then 0 else s.sinceSample + 1 }) ∨
    (s.waiting = true ∧ (s.nmiPending || s.intrAllowed i.env.intr) = false ∧
      i.env.test = false ∧ s.testSampled = true ∧
      t = { s with waiting := false, sinceSample := 0, turn := .start, responseDue := false }) ∨
    (s.waiting = true ∧ (s.nmiPending || s.intrAllowed i.env.intr) = false ∧
      (i.env.test = true ∨ s.testSampled = false) ∧
      t = { s with sinceSample := if s.testSampled then 0 else s.sinceSample + 1 }) := by
  unfold State.waitStep at h
  split at h
  · next hw =>
    split at h
    · next hi =>
      split at h
      · next hp => exact .inr (.inl ⟨hw, hi, hp, by cases h; rfl⟩)
      · cases h
    · next hi =>
      split at h
      · next ht =>
        simp only [Bool.and_eq_true, Bool.not_eq_true'] at ht
        exact .inr (.inr (.inl ⟨hw, by simpa using hi, ht.1, ht.2, by cases h; rfl⟩))
      · next ht =>
        refine .inr (.inr (.inr ⟨hw, by simpa using hi, ?_, by cases h; rfl⟩))
        cases hte : i.env.test <;> simp_all
  · next hw => exact .inl ⟨by simpa using hw, by cases h; rfl⟩

theorem State.beginAccess_next {s t : State} {e : EuIn} (h : s.beginAccess e = .next t) :
    ∃ rs, t = { s with pending := s.pending ++ rs } := by
  unfold State.beginAccess at h
  split at h
  · exact ⟨[], by cases h; simp⟩
  · split at h
    · cases h
    · next rs _ => exact ⟨rs, by cases h; rfl⟩

/-- With nothing left of what it has begun, EU offers a request of its own or none. -/
theorem State.offered_of_nil {s : State} (h : s.pending = []) (e : EuIn) : s.offered e = e.req := by
  unfold State.offered
  rw [h]
  cases e.goOn <;> rfl

/-- A request to which nothing is objected is `Admissible` (R101), and meets what the spec says of every
request EU offers. -/
theorem State.objection_none {s : State} {r : Request} (h : s.objection r = none) :
    (r.bhe = false ∨ r.addr.getLsbD 0 = false) ∧
    (s.waiting = false ∨ opPurpose r.op = .fetch) ∧
    (s.firstFetchDue = false ∨ r.isResetFetch = true) ∧
    r.fetchKindOk s.params.fetchKind = true ∧ r.halfOfTopWord = false ∧
    s.reachable r.op r.addr = true := by
  unfold State.objection at h
  repeat' split at h
  · cases h
  · cases h
  · cases h
  · cases h
  · cases h
  · cases h
  · next h1 h2 h3 h4 h5 h6 =>
    refine ⟨?_, ?_, ?_, by simpa using h4, by simpa using h5, by simpa using h6⟩
    · revert h1; cases r.bhe <;> cases r.addr.getLsbD 0 <;> simp
    · revert h2; cases s.waiting <;> simp
    · revert h3; cases s.firstFetchDue <;> simp

/-- Those conditions are all: a request that meets them is taken. -/
theorem State.objection_none_iff {s : State} {r : Request} : s.objection r = none ↔
    (r.bhe = false ∨ r.addr.getLsbD 0 = false) ∧
    (s.waiting = false ∨ opPurpose r.op = .fetch) ∧
    (s.firstFetchDue = false ∨ r.isResetFetch = true) ∧
    r.fetchKindOk s.params.fetchKind = true ∧ r.halfOfTopWord = false ∧
    s.reachable r.op r.addr = true := by
  refine ⟨State.objection_none, fun ⟨h1, h2, h3, h4, h5, h6⟩ => ?_⟩
  unfold State.objection
  rw [if_neg (by rcases h1 with h | h <;> simp only [h] <;> simp),
    if_neg (by rcases h2 with h | h <;> simp [h]), if_neg (by rcases h3 with h | h <;> simp [h]),
    if_neg (by simp [h4]), if_neg (by simp [h5]), if_neg (by simp [h6])]

theorem State.startOrIdle_next {s t : State} {e : EuIn} (h : s.startOrIdle e = .next t) :
    (s.offered e = none ∧ t = { s with bus := .idle }) ∨
    (∃ r, s.offered e = some r ∧ s.objection r = none ∧
      t = { s with
        bus := .cycle .t1 r
        pending := s.pendingAfter e
        firstFetchDue := false }) := by
  unfold State.startOrIdle at h
  split at h
  · next ho => exact .inl ⟨ho, by cases h; rfl⟩
  · next r ho =>
    split at h
    · cases h
    · next hj => exact .inr ⟨r, ho, hj, by cases h; rfl⟩

theorem State.effect_next {s t : State} {r : Request} (h : s.effect r = .next t) :
    (∃ i, r.instr = some i ∧ exec i s = .next t) ∨ (r.instr = none ∧ t = s) := by
  unfold State.effect at h
  split at h
  · next i hi => exact .inl ⟨i, hi, h⟩
  · next hi => exact .inr ⟨hi, by cases h; rfl⟩

/-- A transfer's cycle never executes WAIT. -/
theorem Request.instr_ne_wait (r : Request) : r.instr ≠ some .wait := by
  unfold Request.instr decodeT1
  split <;> (try split) <;> simp [Except.toOption]

/-- What part 4 of `Step`, the bus interface, can do. -/
theorem State.busStep_next {s t : State} {i : TInput} (h : s.busStep i = .next t) :
    (s.bus = .idle ∧ s.startOrIdle i.eu = .next t) ∨
    (∃ r, s.bus = .cycle .t1 r ∧ t = { s with
        latch := { addr := r.addr, bhe := r.bhe }
        bus := .cycle .t2 r }) ∨
    (∃ r, s.bus = .cycle .t2 r ∧ t = { s with bus := .cycle .t3 r }) ∨
    (∃ ph r, s.bus = .cycle ph r ∧ (ph = .t3 ∨ ph = .tw) ∧
      t = { s with bus := .cycle (if i.env.ready then .t4 else .tw) r }) ∨
    (∃ r u, s.bus = .cycle .t4 r ∧ s.effect r = .next u ∧ u.startOrIdle i.eu = .next t) := by
  unfold State.busStep at h
  split at h
  · next hb => exact .inl ⟨hb, h⟩
  · next r hb => exact .inr (.inl ⟨r, hb, by cases h; rfl⟩)
  · next r hb => exact .inr (.inr (.inl ⟨r, hb, by cases h; rfl⟩))
  · next r hb => exact .inr (.inr (.inr (.inl ⟨_, r, hb, .inl rfl, by cases h; rfl⟩)))
  · next r hb => exact .inr (.inr (.inr (.inl ⟨_, r, hb, .inr rfl, by cases h; rfl⟩)))
  · next r hb =>
    obtain ⟨u, hu, hs⟩ := Out.andThen_next.mp h
    exact .inr (.inr (.inr (.inr ⟨r, u, hb, hu, hs⟩)))

/-- What a T state can do: RESET, or the four parts of `Step` one after another. -/
theorem tStep_next {s t : State} (h : tStep s = .next t) :
    (s.input.env.reset = true ∧ t = (s.resetStep s.input.env).tick) ∨
    (s.input.env.reset = false ∧ ∃ s1 s2 s3,
      (s.leaveReset.sampleInterrupts s.input).waitStep s.input = .next s1 ∧
      s1.beginAccess s.input.eu = .next s2 ∧ s2.busStep s.input = .next s3 ∧
      t = (s3.euEffects s.waiting s.input.eu).tick) := by
  unfold tStep State.tStepOn at h
  split at h
  · cases h
  · split at h
    · next hr => exact .inl ⟨hr, by cases h; rfl⟩
    · next hr =>
      obtain ⟨s1, h1, h⟩ := Out.andThen_next.mp h
      obtain ⟨s2, h2, h⟩ := Out.andThen_next.mp h
      obtain ⟨s3, h3, h⟩ := Out.andThen_next.mp h
      exact .inr ⟨by simpa using hr, s1, s2, s3, h1, h2, h3, by cases h; rfl⟩

/-- A T state that gives a next state had the strap at the mode's level (R112). -/
theorem tStep_strap {s t : State} (h : tStep s = .next t) :
    s.input.env.mnmx = modeLevel s.params.mode := by
  unfold tStep State.tStepOn at h
  split at h
  · cases h
  · next hm => simpa using hm

theorem takeInterrupt_next {k : IntKind} {s t : State} (h : takeInterrupt k s = .next t) :
    ∃ e resp, s.params.intEntry = some e ∧ entryResponse e k s = some resp ∧
      t = { s.consumeRequest k with
      regs := s.regs.writeAll resp.writes
      pending := s.pending ++ resp.requests
      acks := resp.acks
      nest := s.waiting :: s.nest
      waiting := false
      executing := false
      events := intEvent k :: s.events } := by
  unfold takeInterrupt at h
  split at h
  · cases h
  · next e he =>
    split at h
    · cases h
    · next resp hr => exact ⟨e, resp, he, hr, by cases h; rfl⟩

/-- What EU's beginning of an instruction can do. -/
theorem State.euAct_next {s t : State} (h : s.euAct = .next t) :
    (s.waiting = true ∧ t = s) ∨
    (s.waiting = false ∧ s.action = .ret ∧
      t = returnFromInterrupt { s with program := s.program.tail, executing := true }) ∨
    (s.waiting = false ∧ ∃ b, s.action = .instr b ∧ decodeByte b = .ok .wait ∧
      t = { s with program := s.program.tail, executing := true }.beginWait) ∨
    (s.waiting = false ∧ ∃ b, s.action = .instr b ∧ (∀ i, decodeByte b ≠ .ok i) ∧
      t = { s with program := s.program.tail, executing := true }) := by
  unfold State.euAct at h
  split at h
  · next hw => exact .inl ⟨hw, by cases h; rfl⟩
  · next hw =>
    have hw' : s.waiting = false := by simpa using hw
    simp only at h
    split at h
    · next ha => exact .inr (.inl ⟨hw', ha, by cases h; rfl⟩)
    · next b ha =>
      unfold decodeByte at h
      by_cases hb : b = 0x9B
      · rw [if_pos hb] at h
        refine .inr (.inr (.inl ⟨hw', b, ha, by simp [decodeByte, hb], ?_⟩))
        cases h; rfl
      · rw [if_neg hb] at h
        refine .inr (.inr (.inr ⟨hw', b, ha, fun i => by rw [decodeByte, if_neg hb]; simp, ?_⟩))
        cases h; rfl

/-- What EU's move can do. -/
theorem euStep_next {s t : State} (h : euStep s = .next t) :
    (s.turn = .bus ∧ t = s) ∨
    (∃ k, s.turn = .instrEnd ∧ s.chosenInterrupt = some k ∧ s.cyclesDone = true ∧
      takeInterrupt k { s with turn := .bus } = .next t) ∨
    (∃ k, s.turn = .instrEnd ∧ s.chosenInterrupt = some k ∧ s.cyclesDone = false ∧
      t = { s with turn := .bus }.holdResponse) ∨
    ((s.turn = .start ∨ (s.turn = .instrEnd ∧ s.chosenInterrupt = none)) ∧
      { s with turn := .bus }.euAct = .next t) := by
  unfold euStep at h
  split at h
  · next ht =>
    split at h
    · next k hk =>
      split at h
      · next hd => exact .inr (.inl ⟨k, ht, hk, hd, h⟩)
      · next hd => exact .inr (.inr (.inl ⟨k, ht, hk, by simpa using hd, by cases h; rfl⟩))
    · next hk => exact .inr (.inr (.inr ⟨.inr ⟨ht, hk⟩, h⟩))
  · next ht => exact .inr (.inr (.inr ⟨.inl ht, h⟩))
  · next ht => exact .inl ⟨ht, by cases h; rfl⟩

/-- A step is a T state, or EU's move. -/
theorem step_next {s t : State} (h : step s = .next t) :
    (s.turn = .bus ∧ tStep s = .next t) ∨ (s.turn ≠ .bus ∧ euStep s = .next t) := by
  unfold step at h
  split at h
  · next ht => exact .inl ⟨ht, h⟩
  · next ht => exact .inr ⟨by simp [ht], h⟩
  · next ht => exact .inr ⟨by simp [ht], h⟩

/-! ### What each part leaves alone -/

theorem returnFromInterrupt_cases (s : State) :
    (s.nest = [] ∧ returnFromInterrupt s = s) ∨
    (∃ o, s.nest = true :: o ∧ returnFromInterrupt s = { s with nest := o }.beginWait) ∨
    (∃ o, s.nest = false :: o ∧ returnFromInterrupt s = { s with nest := o }) := by
  unfold returnFromInterrupt
  split
  · next hn => exact .inl ⟨hn, rfl⟩
  · next o hn => exact .inr (.inl ⟨o, hn, rfl⟩)
  · next o hn => exact .inr (.inr ⟨o, hn, rfl⟩)

/-- What EU's move never writes: everything outside the CPU, the bus, the queue, the parameters. -/
structure EuFrame (s t : State) : Prop where
  params : t.params = s.params
  queue : t.queue = s.queue
  bus : t.bus = s.bus
  rdata : t.rdata = s.rdata
  nmiPrev : t.nmiPrev = s.nmiPrev
  inReset : t.inReset = s.inReset
  latch : t.latch = s.latch
  mem : t.mem = s.mem
  io : t.io = s.io
  halves : t.halves = s.halves
  received : t.received = s.received
  firstFetchDue : t.firstFetchDue = s.firstFetchDue
  clock : t.clock = s.clock
  script : t.script = s.script

theorem State.euAct_frame {s t : State} (h : s.euAct = .next t) : EuFrame s t := by
  rcases State.euAct_next h with ⟨-, rfl⟩ | ⟨-, -, rfl⟩ | ⟨-, b, -, -, rfl⟩ | ⟨-, b, -, -, rfl⟩
  · constructor <;> rfl
  · rcases returnFromInterrupt_cases { s with program := s.program.tail, executing := true } with
      ⟨-, e⟩ | ⟨o, -, e⟩ | ⟨o, -, e⟩ <;> rw [e] <;> constructor <;> rfl
  · constructor <;> rfl
  · constructor <;> rfl

theorem euStep_frame {s t : State} (h : euStep s = .next t) : EuFrame s t := by
  rcases euStep_next h with ⟨-, rfl⟩ | ⟨k, -, -, -, h⟩ | ⟨k, -, -, -, rfl⟩ | ⟨-, h⟩
  · constructor <;> rfl
  · obtain ⟨e, resp, -, -, rfl⟩ := takeInterrupt_next h
    cases k <;> constructor <;> rfl
  · constructor <;> rfl
  · have := State.euAct_frame h
    exact ⟨this.params, this.queue, this.bus, this.rdata, this.nmiPrev, this.inReset, this.latch,
      this.mem, this.io, this.halves, this.received, this.firstFetchDue, this.clock, this.script⟩

theorem State.effect_frame {s t : State} {r : Request} (h : s.effect r = .next t) :
    ExecFrame s t := by
  rcases State.effect_next h with ⟨i, -, h⟩ | ⟨-, rfl⟩
  · exact exec_frame h
  · constructor <;> rfl

/-- No bus cycle begins or ends a wait (R175). -/
theorem State.effect_waiting {s t : State} {r : Request} (h : s.effect r = .next t) :
    t.waiting = s.waiting ∧ t.sinceSample = s.sinceSample := by
  rcases State.effect_next h with ⟨i, hi, h⟩ | ⟨-, rfl⟩
  · rcases exec_next h with ⟨rfl, rfl⟩ | ⟨c, rfl⟩ | ⟨c, rfl⟩ | ⟨b, r, -, rfl⟩ | ⟨r, d, a, rfl⟩
    · exact absurd hi (Request.instr_ne_wait r)
    all_goals simp
  · exact ⟨rfl, rfl⟩

/-- What the wait's share of a T state never writes. -/
structure WaitFrame (s t : State) : Prop where
  params : t.params = s.params
  regs : t.regs = s.regs
  queue : t.queue = s.queue
  bus : t.bus = s.bus
  rdata : t.rdata = s.rdata
  nmiPrev : t.nmiPrev = s.nmiPrev
  nmiPending : t.nmiPending = s.nmiPending
  inReset : t.inReset = s.inReset
  latch : t.latch = s.latch
  mem : t.mem = s.mem
  io : t.io = s.io
  pending : t.pending = s.pending
  halves : t.halves = s.halves
  received : t.received = s.received
  nest : t.nest = s.nest
  acks : t.acks = s.acks
  firstFetchDue : t.firstFetchDue = s.firstFetchDue
  events : t.events = s.events
  clock : t.clock = s.clock
  script : t.script = s.script
  program : t.program = s.program

theorem State.waitStep_frame {s t : State} {i : TInput} (h : s.waitStep i = .next t) :
    WaitFrame s t := by
  rcases State.waitStep_next h with ⟨-, rfl⟩ | ⟨-, -, -, rfl⟩ | ⟨-, -, -, -, rfl⟩ | ⟨-, -, -, rfl⟩ <;>
    constructor <;> rfl

/-- What the bus interface's share of a T state, with the access EU begins, never writes. -/
structure BusFrame (s t : State) : Prop where
  params : t.params = s.params
  regs : t.regs = s.regs
  nmiPrev : t.nmiPrev = s.nmiPrev
  nmiPending : t.nmiPending = s.nmiPending
  intrAccept : t.intrAccept = s.intrAccept
  waiting : t.waiting = s.waiting
  sinceSample : t.sinceSample = s.sinceSample
  inReset : t.inReset = s.inReset
  turn : t.turn = s.turn
  nest : t.nest = s.nest
  responseDue : t.responseDue = s.responseDue
  executing : t.executing = s.executing
  events : t.events = s.events
  clock : t.clock = s.clock
  script : t.script = s.script
  program : t.program = s.program

theorem State.startOrIdle_frame {s t : State} {e : EuIn} (h : s.startOrIdle e = .next t) :
    BusFrame s t := by
  rcases State.startOrIdle_next h with ⟨-, rfl⟩ | ⟨r, -, -, rfl⟩ <;> constructor <;> rfl

theorem State.busPart_frame {s t u : State} {i : TInput} (h : s.beginAccess i.eu = .next t)
    (hb : t.busStep i = .next u) : BusFrame s u := by
  obtain ⟨rs, rfl⟩ := State.beginAccess_next h
  rcases State.busStep_next hb with ⟨-, hs⟩ | ⟨r, -, rfl⟩ | ⟨r, -, rfl⟩ | ⟨ph, r, -, -, rfl⟩ |
    ⟨r, v, -, he, hs⟩
  · rcases State.startOrIdle_next hs with ⟨-, rfl⟩ | ⟨r, -, -, rfl⟩ <;> constructor <;> rfl
  · constructor <;> rfl
  · constructor <;> rfl
  · constructor <;> rfl
  · have f := State.effect_frame he
    have w := State.effect_waiting he
    have g := State.startOrIdle_frame hs
    exact ⟨g.params.trans f.params, g.regs.trans f.regs, g.nmiPrev.trans f.nmiPrev,
      g.nmiPending.trans f.nmiPending, g.intrAccept.trans f.intrAccept, g.waiting.trans w.1,
      g.sinceSample.trans w.2, g.inReset.trans f.inReset, g.turn.trans f.turn,
      g.nest.trans f.nest, g.responseDue.trans f.responseDue, g.executing.trans f.executing, g.events.trans f.events,
      g.clock.trans f.clock, g.script.trans f.script, g.program.trans f.program⟩

/-- A T state in which RESET is low: the parts of `Step`, one after another. -/
theorem step_of_bus_next {s t : State} (ht : s.turn = .bus) (hr : s.input.env.reset = false)
    (h : step s = .next t) :
    ∃ s1 s2 s3, (s.leaveReset.sampleInterrupts s.input).waitStep s.input = .next s1 ∧
      s1.beginAccess s.input.eu = .next s2 ∧ s2.busStep s.input = .next s3 ∧
      t = (s3.euEffects s.waiting s.input.eu).tick := by
  rcases step_next h with ⟨-, h⟩ | ⟨c, -⟩
  · rcases tStep_next h with ⟨c, -⟩ | ⟨-, h⟩
    · rw [hr] at c; cases c
    · exact h
  · exact absurd ht c

theorem opPurpose_fetch_iff (op : BusOp) : opPurpose op = .fetch ↔ op = .fetch := by
  cases op <;> simp [opPurpose]

/-- When the bus cycles of an instruction have run (R190). -/
theorem State.cyclesDone_iff (s : State) :
    s.cyclesDone = true ↔
      s.pending = [] ∧
        (s.bus = .idle ∨ ∃ ph r, s.bus = .cycle ph r ∧ r.op = .fetch ∧ ph ≠ .tw) := by
  simp only [State.cyclesDone, Bool.and_eq_true, List.isEmpty_iff]
  refine and_congr_right fun _ => ?_
  cases s.bus with
  | idle => simp
  | cycle ph r => simp [opPurpose_fetch_iff]

/-- Where EU stands after a T state (R101, R190). -/
theorem State.euEffects_turn (s : State) (w : Bool) (e : EuIn) :
    (s.euEffects w e).turn =
      match s.turn with
      | .instrEnd => .instrEnd
      | t =>
        if s.waiting then .bus
        else if s.responseDue then if s.cyclesDone then .instrEnd else .bus
        else if e.instrLastClock then .instrEnd
        else if e.start && !s.executing then .start
        else t := by
  cases w <;> rfl

end Sys2Proof.Machine
end

