-- ==== Sys2Proof/Laws/Access.lean ====
section
/-!
SUPPORT. Lanes and bytes; the parity of an address; what an access splits into; and the shared
halves of a transfer, as equations.
-/

namespace Sys2Proof

/-! ### Bytes and lanes -/

@[simp] theorem lowByte_joinBytes (h l : Byte) : lowByte (joinBytes h l) = l := by
  apply BitVec.eq_of_getLsbD_eq
  intro i hi
  rw [lowByte, joinBytes, BitVec.getLsbD_extractLsb', BitVec.getLsbD_append]
  simp [hi]

@[simp] theorem highByte_joinBytes (h l : Byte) : highByte (joinBytes h l) = h := by
  apply BitVec.eq_of_getLsbD_eq
  intro i hi
  rw [highByte, joinBytes, BitVec.getLsbD_extractLsb', BitVec.getLsbD_append]
  simp [hi]

@[simp] theorem joinBytes_split (w : Word) : joinBytes (highByte w) (lowByte w) = w := by
  apply BitVec.eq_of_getLsbD_eq
  intro i hi
  rw [joinBytes, BitVec.getLsbD_append, lowByte, highByte, BitVec.getLsbD_extractLsb',
    BitVec.getLsbD_extractLsb']
  by_cases h : i < 8
  · simp [h]
  · simp [h]
    rw [show 8 + (i - 8) = i by omega]
    simp
    omega

/-! ### The parity of an address -/

theorem evenOf_getLsbD (a : Addr) {i : Nat} (hi : i < 20) :
    (evenOf a).getLsbD i = (a.getLsbD i && decide (i ≠ 0)) := by
  have : ∀ j : Fin 20, (0xFFFFE : Addr).getLsbD j.val = decide (j.val ≠ 0) := by decide
  rw [evenOf, BitVec.getLsbD_and, this ⟨i, hi⟩]

theorem oddOf_getLsbD (a : Addr) {i : Nat} (hi : i < 20) :
    (oddOf a).getLsbD i = (a.getLsbD i || decide (i = 0)) := by
  have : ∀ j : Fin 20, (0x00001 : Addr).getLsbD j.val = decide (j.val = 0) := by decide
  rw [oddOf, BitVec.getLsbD_or, this ⟨i, hi⟩]

theorem evenOf_of_even {a : Addr} (h : a.getLsbD 0 = false) : evenOf a = a := by
  apply BitVec.eq_of_getLsbD_eq
  intro i hi
  rw [evenOf_getLsbD a hi]
  by_cases h0 : i = 0
  · subst h0; simp only [h]; rfl
  · simp [h0]

theorem oddOf_of_odd {a : Addr} (h : a.getLsbD 0 = true) : oddOf a = a := by
  apply BitVec.eq_of_getLsbD_eq
  intro i hi
  rw [oddOf_getLsbD a hi]
  by_cases h0 : i = 0
  · subst h0; simp only [h]; rfl
  · simp [h0]

/-- The high lane's byte of an even address is at the next address, which does not carry (R42). -/
theorem oddOf_of_even {a : Addr} (h : a.getLsbD 0 = false) : oddOf a = a + 1 := by
  rw [oddOf]
  symm
  apply BitVec.add_eq_or_of_and_eq_zero
  apply BitVec.eq_of_getLsbD_eq
  intro i hi
  have : ∀ j : Fin 20, (0x00001 : Addr).getLsbD j.val = decide (j.val = 0) := by decide
  rw [BitVec.getLsbD_and, this ⟨i, hi⟩]
  by_cases h0 : i = 0
  · subst h0; simp only [h]; rfl
  · simp [h0]

/-- The address after an odd one is even (R45). -/
theorem succ_even {a : Addr} (h : a.getLsbD 0 = true) : (a + 1).getLsbD 0 = false := by
  have h1 : (a + 1).getLsbD 0 = decide ((a + 1).toNat % 2 = 1) := by
    simp [BitVec.getLsbD, Nat.testBit_zero]
  have h2 : a.getLsbD 0 = decide (a.toNat % 2 = 1) := by
    simp [BitVec.getLsbD, Nat.testBit_zero]
  rw [h2] at h
  rw [h1, BitVec.toNat_add]
  simp at h ⊢
  omega

theorem succ_ne_zero {a : Addr} (h : a ≠ 0xFFFFF) : a + 1 ≠ 0 := by
  intro e
  apply h
  apply BitVec.eq_of_toNat_eq
  have h1 := congrArg BitVec.toNat e
  rw [BitVec.toNat_add] at h1
  have h2 := a.isLt
  simp at h1 ⊢
  omega

theorem toNat_ne_succ (a : Addr) : a.toNat ≠ (a + 1).toNat := by
  intro e
  have := BitVec.eq_of_toNat_eq e
  simp at this

/-! ### What an access splits into (R53, R150) -/

theorem requests_byteEven {a : Addr} {op : BusOp} {d : DatumId} (h : a.getLsbD 0 = false) :
    Access.requests ⟨a, false, op, d⟩ =
      some [⟨a, true, none, opWithWdata op (joinBytes 0 (lowByte ((opWdata op).getD 0)))⟩] := by
  simp only [Access.requests, h]

theorem requests_byteOdd {a : Addr} {op : BusOp} {d : DatumId} (h : a.getLsbD 0 = true) :
    Access.requests ⟨a, false, op, d⟩ =
      some [⟨a, false, none, opWithWdata op (joinBytes (lowByte ((opWdata op).getD 0)) 0)⟩] := by
  simp only [Access.requests, h]

theorem requests_wordEven {a : Addr} {op : BusOp} {d : DatumId} (h : a.getLsbD 0 = false) :
    Access.requests ⟨a, true, op, d⟩ = some [⟨a, false, none, op⟩] := by
  simp only [Access.requests, h]

theorem requests_wordOdd {a : Addr} {op : BusOp} {d : DatumId} (h : a.getLsbD 0 = true) (hn : a ≠ 0xFFFFF) :
    Access.requests ⟨a, true, op, d⟩ =
      some [⟨a, false, some d, opWithWdata op (joinBytes (lowByte ((opWdata op).getD 0)) 0)⟩,
        ⟨a + 1, true, some d, opWithWdata op (joinBytes 0 (highByte ((opWdata op).getD 0)))⟩] := by
  simp only [Access.requests, h, if_neg hn]

namespace Machine

/-! ### The shared halves as equations -/

theorem State.busRead_memRead (s : State) (seg : SegReg) (bytes : List QByte) (r : Word)
    (d : Delivery) :
    s.busRead (.memRead seg) bytes r d = .next ({ s with rdata := r }.receive d) := by
  simp [State.busRead, State.reachable, opSpace, opPurpose]

theorem State.busWrite_memWrite (s : State) (seg : SegReg) (w : Word) (cells : List (Addr × Byte))
    (h : (cells.any fun c => s.queued c.1) = false) :
    s.busWrite (.memWrite seg w) cells = .next { s with mem := s.mem.writeAll cells } := by
  simp only [State.busWrite, opSpace, h]
  rfl

theorem State.busRead_ioRead (s : State) (bytes : List QByte) (r : Word) (d : Delivery)
    (h : ∀ q ∈ bytes, q.addr.toNat < s.params.portCount) :
    s.busRead .ioRead bytes r d = .next ({ s with rdata := r }.receive d) := by
  have hr : (bytes.all fun q => s.reachable .ioRead q.addr) = true := by
    simpa [State.reachable, opSpace] using h
  simp only [State.busRead, hr, opPurpose, if_true]

theorem State.busWrite_ioWrite (s : State) (w : Word) (cells : List (Addr × Byte))
    (h : ∀ c ∈ cells, c.1.toNat < s.params.portCount) :
    s.busWrite (.ioWrite w) cells = .next { s with io := s.io.writeAll cells } := by
  have hr : (cells.all fun c => s.reachable (.ioWrite w) c.1) = true :=
    List.all_eq_true.mpr fun c hc => decide_eq_true (h c hc)
  simp only [State.busWrite, opSpace, hr, if_true]

/-- The effect of a bus cycle, by its transfer code (R53, R73). -/
theorem State.effect_eq (s : State) (r : Request) :
    s.effect r =
      match r.bhe, r.addr.getLsbD 0 with
      | false, false => execXferWEven r.addr r.op s
      | true, false =>
        match r.half with
        | some d => execXferWOdd2 r.addr ⟨r.op, d⟩ s
        | none => execXferBEven r.addr r.op s
      | false, true =>
        match r.half with
        | some d => execXferWOdd1 r.addr ⟨r.op, d⟩ s
        | none => execXferBOdd r.addr r.op s
      | true, true => .next s := by
  rw [State.effect, Request.instr_eq]
  cases r.bhe <;> cases r.addr.getLsbD 0 <;> cases r.half <;> rfl

theorem State.effects_one (s : State) (r : Request) : s.effects [r] = s.effect r := by
  simp only [State.effects]
  cases s.effect r <;> rfl

theorem State.access_of_requests {s : State} {x : Access} {rs : List Request}
    (h : x.requests = some rs) : s.access x = s.effects rs := by
  simp only [State.access, h]

end Machine

end Sys2Proof
end

