-- ==== Sys2Proof/Laws/PerInstr.lean ====
section
/-!
SUPPORT. Statements made per instruction. `EncodingMatches`: a well-formed instruction's code matches
its row of `opcode_table.json` (R73, R81, R84).
-/

namespace Sys2Proof.Laws.EncodingMatches

open Sys2Proof

/-- The code of a well-formed transfer, under its row's mask, is its row's match; WAIT's is 9BH. -/
def Statement (i : Instr) : Prop :=
  i.wellFormed = true →
    match encode i, i.row? with
    | .t1 w, some r => ∃ t ∈ t1Rows, t.row = r ∧ w &&& t.mask = t.matchBits
    | .byte b, none => b = 0x9B
    | .t1 _, none => False
    | .byte _, some _ => False

theorem xferWEven (a : Addr) (op : BusOp) : Statement (.xferWEven a op) := by
  intro h
  simp only [Instr.wellFormed, Bool.and_eq_true, Bool.not_eq_true'] at h
  exact ⟨⟨.wEven, 0x000000, 0x100001⟩, by decide, rfl, by rw [t1Word_mask, h.1]; rfl⟩

theorem xferBEven (a : Addr) (op : BusOp) : Statement (.xferBEven a op) := by
  intro h
  simp only [Instr.wellFormed, Bool.and_eq_true, Bool.not_eq_true'] at h
  exact ⟨⟨.bEven, 0x100000, 0x100001⟩, by decide, rfl, by rw [t1Word_mask, h.1]; rfl⟩

theorem xferBOdd (a : Addr) (op : BusOp) : Statement (.xferBOdd a op) := by
  intro h
  simp only [Instr.wellFormed, Bool.and_eq_true] at h
  exact ⟨⟨.bOdd, 0x000001, 0x100001⟩, by decide, rfl, by rw [t1Word_mask, h.1]; rfl⟩

theorem xferWOdd1 (a : Addr) (op : HalfOp) : Statement (.xferWOdd1 a op) := by
  intro h
  simp only [Instr.wellFormed, Bool.and_eq_true] at h
  exact ⟨⟨.wOdd1, 0x000001, 0x100001⟩, by decide, rfl, by rw [t1Word_mask, h.1.1]; rfl⟩

theorem xferWOdd2 (a : Addr) (op : HalfOp) : Statement (.xferWOdd2 a op) := by
  intro h
  simp only [Instr.wellFormed, Bool.and_eq_true, Bool.not_eq_true'] at h
  exact ⟨⟨.wOdd2, 0x100000, 0x100001⟩, by decide, rfl, by rw [t1Word_mask, h.1]; rfl⟩

theorem wait : Statement .wait := fun _ => rfl

end Sys2Proof.Laws.EncodingMatches
end

