-- ==== Sys2Proof/Laws/Script.lean ====
section
/-!
SUPPORT. The coming inputs play no part within a T state: every part of `Step` commutes with
replacing the script. Used to prove that a level of an input pin is not read.
-/

namespace Sys2Proof.Machine

/-- The state with another script. -/
def State.setScript (l : List TInput) (s : State) : State := { s with script := l }

/-- Change the next state of an outcome. -/
def Out.map (f : State → State) (o : Out) : Out := Out.andThen o fun t => .next (f t)

theorem Out.map_next (f : State → State) (s : State) : Out.map f (.next s) = .next (f s) := rfl

theorem Out.map_andThen {l : List TInput} {f g : State → Out} (o : Out)
    (h : ∀ t, g (t.setScript l) = Out.map (State.setScript l) (f t)) :
    Out.andThen (Out.map (State.setScript l) o) g =
      Out.map (State.setScript l) (Out.andThen o f) := by
  cases o <;> simp [Out.map, Out.andThen, h]

theorem Out.andThen_assoc (o : Out) (f g : State → Out) :
    Out.andThen (Out.andThen o f) g = Out.andThen o fun t => Out.andThen (f t) g := by
  cases o <;> rfl

theorem State.waitStep_setScript (l : List TInput) (s : State) (i : TInput) :
    (s.setScript l).waitStep i = Out.map (State.setScript l) (s.waitStep i) := by
  unfold State.waitStep State.intrAllowed State.testSampled
  simp only [apply_ite (Out.map (State.setScript l))]
  rfl

theorem State.beginAccess_setScript (l : List TInput) (s : State) (e : EuIn) :
    (s.setScript l).beginAccess e = Out.map (State.setScript l) (s.beginAccess e) := by
  unfold State.beginAccess
  cases e.access with
  | none => rfl
  | some x => simp only; cases x.requests <;> rfl

theorem State.startOrIdle_setScript (l : List TInput) (s : State) (e : EuIn) :
    (s.setScript l).startOrIdle e = Out.map (State.setScript l) (s.startOrIdle e) := by
  unfold State.startOrIdle
  have h1 : (s.setScript l).offered e = s.offered e := rfl
  have h2 : ∀ r, (s.setScript l).objection r = s.objection r := fun _ => rfl
  simp only [h1, h2]
  cases s.offered e with
  | none => rfl
  | some r => simp only; cases s.objection r <;> rfl

theorem State.busWrite_setScript (l : List TInput) (s : State) (op : BusOp)
    (c : List (Addr × Byte)) :
    (s.setScript l).busWrite op c = Out.map (State.setScript l) (s.busWrite op c) := by
  unfold State.busWrite
  have h1 : ∀ a, (s.setScript l).queued a = s.queued a := fun _ => rfl
  have h2 : ∀ a, (s.setScript l).reachable op a = s.reachable op a := fun _ => rfl
  simp only [h1, h2]
  cases opSpace op <;> simp only [apply_ite (Out.map (State.setScript l))] <;> rfl

theorem State.busRead_setScript (l : List TInput) (s : State) (op : BusOp) (b : List QByte)
    (r : Word) (d : Delivery) :
    (s.setScript l).busRead op b r d = Out.map (State.setScript l) (s.busRead op b r d) := by
  unfold State.busRead
  have h2 : ∀ a, (s.setScript l).reachable op a = s.reachable op a := fun _ => rfl
  have h3 : (s.setScript l).queue = s.queue := rfl
  have h4 : (s.setScript l).params = s.params := rfl
  simp only [h2, h3, h4]
  cases opPurpose op <;> simp only [apply_ite (Out.map (State.setScript l))] <;> cases d <;> rfl

theorem exec_setScript (l : List TInput) (i : Instr) (s : State) :
    exec i (s.setScript l) = Out.map (State.setScript l) (exec i s) := by
  have hb : ∀ op a, (s.setScript l).busByte op a = s.busByte op a := fun _ _ => rfl
  have hc : (s.setScript l).clock = s.clock := rfl
  cases i <;> simp only [exec, execXferWEven, execXferBEven, execXferBOdd, execXferWOdd1,
    execXferWOdd2, execWait, hb, hc, State.busWrite_setScript, State.busRead_setScript,
    apply_ite (Out.map (State.setScript l))]
  case wait => rfl
  all_goals (cases opWdata _ <;> rfl)

theorem State.effect_setScript (l : List TInput) (s : State) (r : Request) :
    (s.setScript l).effect r = Out.map (State.setScript l) (s.effect r) := by
  unfold State.effect
  split
  · rw [exec_setScript]
  · rfl

theorem State.busStep_setScript (l : List TInput) (s : State) (i : TInput) :
    (s.setScript l).busStep i = Out.map (State.setScript l) (s.busStep i) := by
  unfold State.busStep
  rw [show (s.setScript l).bus = s.bus from rfl]
  split
  · rw [State.startOrIdle_setScript]
  · rfl
  · rfl
  · rfl
  · rfl
  · rw [State.effect_setScript]
    exact Out.map_andThen _ fun t => State.startOrIdle_setScript l t _

theorem State.euEffects_setScript (l : List TInput) (s : State) (w : Bool) (e : EuIn) :
    (s.setScript l).euEffects w e = (s.euEffects w e).setScript l := by
  cases w <;> rfl

theorem State.resetStep_setScript (l : List TInput) (s : State) (e : Env) :
    (s.setScript l).resetStep e = (s.resetStep e).setScript l := by
  unfold State.resetStep State.abandonCycle
  simp only [show (s.setScript l).bus = s.bus from rfl,
    show (s.setScript l).inReset = s.inReset from rfl]
  split
  · rfl
  · split
    · rfl
    · split <;> rfl

theorem State.tick_setScript (l : List TInput) (s : State) :
    (s.setScript l).tick = s.tick.setScript l.tail := rfl

theorem State.tStepOn_setScript (l : List TInput) (s : State) (i : TInput) :
    (s.setScript l).tStepOn i = Out.map (State.setScript l.tail) (s.tStepOn i) := by
  unfold State.tStepOn
  have e2 : ((s.setScript l).leaveReset.sampleInterrupts i).waitStep i =
      Out.map (State.setScript l) ((s.leaveReset.sampleInterrupts i).waitStep i) :=
    State.waitStep_setScript l (s.leaveReset.sampleInterrupts i) i
  rw [show (s.setScript l).params = s.params from rfl,
    show (s.setScript l).waiting = s.waiting from rfl, e2, State.resetStep_setScript]
  split
  · rfl
  · split
    · rfl
    · cases (s.leaveReset.sampleInterrupts i).waitStep i with
      | fault f => rfl
      | refused f => rfl
      | next u =>
        simp only [Out.map, Out.andThen]
        rw [State.beginAccess_setScript]
        cases u.beginAccess i.eu with
        | fault f => rfl
        | refused f => rfl
        | next u =>
          simp only [Out.map, Out.andThen]
          rw [State.busStep_setScript]
          cases u.busStep i with
          | fault f => rfl
          | refused f => rfl
          | next u =>
            simp only [Out.map, Out.andThen, State.euEffects_setScript, State.tick_setScript]

/-- A T state uses up the first entry of the script. -/
theorem State.tStepOn_script {s t : State} {i : TInput} (h : s.tStepOn i = .next t) :
    t.script = s.script.tail := by
  have e := State.tStepOn_setScript s.script s i
  rw [show s.setScript s.script = s from rfl, h] at e
  simp only [Out.map, Out.andThen] at e
  injection e with e
  rw [e]
  rfl

/-- The first entry of the script is not read but as the inputs of the T state. -/
theorem State.tStepOn_head (s : State) (i j : TInput) :
    State.tStepOn { s with script := j :: s.script.tail } i = s.tStepOn i := by
  have e := State.tStepOn_setScript (j :: s.script.tail) s i
  rw [show ({ s with script := j :: s.script.tail } : State) =
    s.setScript (j :: s.script.tail) from rfl, e]
  cases h : s.tStepOn i with
  | next t =>
    have ht := State.tStepOn_script h
    simp only [Out.map, Out.andThen, List.tail_cons, State.setScript, ← ht]
  | fault f => rfl
  | refused f => rfl

theorem step_of_bus {s : State} (h : s.turn = .bus) : step s = s.tStepOn s.input := by
  rw [step, h]
  rfl

end Sys2Proof.Machine
end

