-- ==== Sys2Proof/Tests/Slice0.lean ====
section
/-!
SUPPORT. Tests. Expected values are those of `95_test_vectors.md` (the vector is named at each test),
of the rules' worked lines, or written out by hand from the spec's encodings. The last part holds one
witness for every obligation that has hypotheses.
-/

namespace Sys2Proof.Tests

open Sys2Proof Sys2Proof.Machine

/-! ### Helpers -/

/-- The levels of vector part 2 of file 95: RESET, NMI, INTR low; READY, TEST high; minimum mode. -/
def env : Env :=
  { mnmx := true, reset := false, ready := true, nmi := false, intr := false, test := true }

/-- Those levels, and EU does nothing. -/
def quiet : TInput := { env := env, eu := {} }

/-- TEST low, nothing else. -/
def testLowInput : TInput := { env := { env with test := false }, eu := {} }

/-- RESET high. -/
def resetInput : TInput := { env := { env with reset := true }, eu := {} }

/-- READY low. -/
def notReady : TInput := { env := { env with ready := false }, eu := {} }

/-- The parameters of file 95, with plain storage behind every port (V42.16). -/
def params : Params :=
  { Params.standard with testPollMax := 1, ioStorage := [⟨0, 65536⟩] }

/-- The memory of section 2.3 of file 95, after the first fetch, one quiet T state to come. -/
def base : State :=
  { State.reset with
    params := params
    inReset := false
    firstFetchDue := false
    script := [quiet]
    mem := [(0x100, 0x34), (0x101, 0x12), (0x102, 0x78), (0x103, 0x56), (0xFFFFE, 0xEE),
      (0xFFFFF, 0xFF)]
    io := [(0x60, 0x01), (0x61, 0x02)] }

/-- `base` with the bus at T state `ph` of the cycle `r`. -/
def onBus (ph : Phase) (r : Request) : State :=
  { base with bus := .cycle ph r, latch := { addr := r.addr, bhe := r.bhe } }

/-- `base` with other inputs. -/
def scripted (l : List TInput) : State := { base with script := l }

/-- `base` in the waiting state of WAIT. -/
def waitingOn (i : TInput) : State := { base with waiting := true, script := [i] }

/-- `base` where EU stands at the end of an instruction. -/
def atEnd (nmi intr : Bool) : State :=
  { base with turn := .instrEnd, nmiPending := nmi, intrAccept := intr
              program := [.instr 0x90] }

/-- An `int_entry` of one register write and, for INTR, one acknowledge cycle with its datum. -/
def entry : IntEntry :=
  .fixed ⟨[(.ip, 0x0200)], [], []⟩ ⟨[(.ip, 0x0100)], [⟨0, false, none, .intAck⟩], [0x0042]⟩

/-- The outcome is a next state of which `p` holds. -/
def nextIs (o : Out) (p : State → Bool) : Bool :=
  match o with
  | .next s => p s
  | .fault _ => false
  | .refused _ => false

/-- The outcome is the refusal `r`. -/
def refusedWith (o : Out) (r : Refusal) : Bool :=
  match o with
  | .next _ => false
  | .fault _ => false
  | .refused r' => r' == r

/-! ### WellFormed refuses what the spec excludes -/

theorem test_wEven_odd_address : (Instr.xferWEven 0x00101 .fetch).wellFormed = false := by decide
theorem test_bEven_odd_address : (Instr.xferBEven 0x00101 .fetch).wellFormed = false := by decide
theorem test_bOdd_even_address : (Instr.xferBOdd 0x00100 .fetch).wellFormed = false := by decide
theorem test_wOdd1_even_address : (Instr.xferWOdd1 0x00100 ⟨.fetch, 0⟩).wellFormed = false := by decide
theorem test_wOdd1_top : (Instr.xferWOdd1 0xFFFFF ⟨.fetch, 0⟩).wellFormed = false := by decide
theorem test_wOdd2_odd_address : (Instr.xferWOdd2 0x00101 ⟨.fetch, 0⟩).wellFormed = false := by decide
theorem test_io_upper_lines : (Instr.xferBEven 0x10000 .ioRead).wellFormed = false := by decide

/-! ### Decoding: one word per row, written out from R73, R81, R84 -/

/-- `bhe` = 0, address 12345H cleared to even, 12344H: V40.7's layout. -/
theorem test_decode_wEven :
    decode ⟨.fetch, none⟩ (.t1 0b000010010001101000100) = .ok (.xferWEven 0x12344 .fetch) := by
  decide

/-- `bhe` = 1, address 00102H (R84's worked line). -/
theorem test_decode_bEven :
    decode ⟨.memRead .ds, none⟩ (.t1 0b100000000000100000010) =
      .ok (.xferBEven 0x00102 (.memRead .ds)) := by decide

/-- `bhe` = 0, address A5A5BH (V40.10). -/
theorem test_decode_bOdd :
    decode ⟨.memRead .ds, none⟩ (.t1 0b010100101101001011011) =
      .ok (.xferBOdd 0xA5A5B (.memRead .ds)) := by decide

/-- `bhe` = 0, address 00101H, known to be half of a word (V42.8). -/
theorem test_decode_wOdd1 :
    decode ⟨.memWrite .ds 0xCD00, some 7⟩ (.t1 0b000000000000100000001) =
      .ok (.xferWOdd1 0x00101 ⟨.memWrite .ds 0xCD00, 7⟩) := by decide

/-- `bhe` = 1, address 00102H, known to be half of a word (V42.8). -/
theorem test_decode_wOdd2 :
    decode ⟨.memWrite .ds 0x00AB, some 7⟩ (.t1 0b100000000000100000010) =
      .ok (.xferWOdd2 0x00102 ⟨.memWrite .ds 0x00AB, 7⟩) := by decide

/-- 9BH (GK6). -/
theorem test_decode_wait : decode ⟨.fetch, none⟩ (.byte 0b10011011) = .ok .wait := by decide

/-! ### One step of each instruction -/

/-- V42.1. -/
theorem test_wEven_read :
    nextIs (exec (.xferWEven 0x100 (.memRead .ds)) base)
      (fun t => t.received == .word 0x1234 && t.rdata == 0x1234) = true := by decide

/-- V42.2. -/
theorem test_wEven_write :
    nextIs (exec (.xferWEven 0x102 (.memWrite .ds 0xBEEF)) base)
      (fun t => t.mem.read 0x102 == 0xEF && t.mem.read 0x103 == 0xBE) = true := by decide

/-- V42.3. -/
theorem test_bEven_read :
    nextIs (exec (.xferBEven 0x100 (.memRead .ds)) base)
      (fun t => t.received == .byte 0x34) = true := by decide

/-- V42.4. -/
theorem test_bEven_write :
    nextIs (exec (.xferBEven 0x100 (.memWrite .ds 0xFF5A)) base)
      (fun t => t.mem.read 0x100 == 0x5A && t.mem.read 0x101 == 0x12) = true := by decide

/-- V42.5, V42.11. -/
theorem test_bOdd_read :
    nextIs (exec (.xferBOdd 0xFFFFF (.memRead .ds)) base)
      (fun t => t.received == .byte 0xFF) = true := by decide

/-- V42.6. -/
theorem test_bOdd_write :
    nextIs (exec (.xferBOdd 0x101 (.memWrite .ds 0xA5FF)) base)
      (fun t => t.mem.read 0x101 == 0xA5 && t.mem.read 0x100 == 0x34) = true := by decide

/-- V42.7, first cycle: the low byte of the datum. -/
theorem test_wOdd1_read :
    nextIs (exec (.xferWOdd1 0x101 ⟨.memRead .ds, 0⟩) base)
      (fun t => t.halves == [⟨0, 0x12⟩] && t.received == .nothing) = true := by decide

/-- V42.8 and V42.9, first cycle. -/
theorem test_wOdd1_write :
    nextIs (exec (.xferWOdd1 0x101 ⟨.memWrite .ds 0xCD00, 0⟩) base)
      (fun t => t.mem.read 0x101 == 0xCD && t.mem.read 0x102 == 0x78) = true := by decide

/-- V42.7, second cycle. -/
theorem test_wOdd2_read :
    nextIs (exec (.xferWOdd2 0x102 ⟨.memRead .ds, 0⟩) { base with halves := [⟨0, 0x12⟩] })
      (fun t => t.received == .word 0x7812) = true := by decide

/-- V42.8, second cycle. -/
theorem test_wOdd2_write :
    nextIs (exec (.xferWOdd2 0x102 ⟨.memWrite .ds 0x00AB, 0⟩) base)
      (fun t => t.mem.read 0x102 == 0xAB && t.mem.read 0x103 == 0x56) = true := by decide

/-- R155: another word's first half lies between the two halves of this one; the data do not mix. -/
theorem test_interleaved_words :
    nextIs (Out.andThen (exec (.xferWOdd1 0x101 ⟨.memRead .ds, 0⟩) base) fun t =>
        Out.andThen (exec (.xferWOdd1 0x103 ⟨.memRead .ds, 1⟩) t)
          (exec (.xferWOdd2 0x102 ⟨.memRead .ds, 0⟩)))
      (fun t => t.received == .word 0x7812 && t.halves == [⟨1, 0x56⟩]) = true := by decide

/-- D12: a word at 0000:FFFFH whose second half EU puts at 00000H. R60 refuses FFFFFH alone. -/
theorem test_wOdd2_zero :
    nextIs (exec (.xferWOdd2 0x00000 ⟨.memWrite .ds 0x00AB, 0⟩) base)
      (fun t => t.mem.read 0 == 0xAB) = true := by decide

/-- R41: ports have A19~A16 = 0000, whatever `IO_ADDR_BITS` is. -/
theorem test_io_beyond_the_ports :
    refusedWith (State.startOrIdle { base with params := { params with ioAddrBits := 20 } }
        { req := some ⟨0x10000, true, none, .ioRead⟩ })
      .noSuchPort = true := by decide

/-- R101: a response's requests are left, and EU offers a fetch, or nothing, first. -/
theorem test_pending_may_wait :
    let s := { base with pending := [⟨0, false, none, .intAck⟩] }
    nextIs (s.startOrIdle { goOn := false, req := some (.wordFetch 0x200) })
      (fun t => t.bus == .cycle .t1 (.wordFetch 0x200) && t.pending.length == 1) = true ∧
    nextIs (s.startOrIdle { goOn := false }) (fun t => t.bus == .idle && t.pending.length == 1) =
      true := by decide

/-- R170: WAIT, placed where EU begins its next instruction. -/
theorem test_wait_enters :
    nextIs (step (State.reset.withFetchWord 8 0x9B)) (fun t => t.waiting) = true := by decide

/-- V43.2: TEST already low ends the wait at once. -/
theorem test_wait_ends :
    nextIs (step (waitingOn testLowInput)) (fun t => !t.waiting && t.turn == .start) = true := by
  decide

/-- A transfer's table word runs as the first instruction after reset: V42.1's word. -/
theorem test_withFetchWord :
    nextIs (step (State.reset.withFetchWord 24 0x000100))
      (fun t => t.received == .word 0 && t.bus == .idle) = true := by decide

/-- R101 part 3, R174 under `wait_interruptible` = true: a rise of NMI in a T state whose TEST is low
completes WAIT; with TEST high WAIT is left waiting. Either way the request is answered next. -/
theorem test_interrupted_wait :
    let p := { params with waitInterruptible := true }
    let on (test : Bool) : State := { waitingOn { env := { env with nmi := true, test := test }, eu := {} }
      with params := p }
    nextIs (step (on false)) (fun t => !t.waiting && t.turn == .instrEnd) = true ∧
    nextIs (step (on true)) (fun t => t.waiting && t.turn == .instrEnd) = true := by decide

/-! ### A response -/

/-- GK16 as an `int_entry`: push FLAGS, CS and IP, and load them from the vector of type 2. -/
def pushes : IntEntry :=
  let push (n : Word) (r : Reg) : EntryAccess :=
    ⟨.memWrite .ss 0, true, .reg .ss, .lit (0x0100 - n), .reg r, 0⟩
  let form : EntryForm :=
    { writes := [(.flags, .and (.reg .flags) (.lit 0xFDFF)), (.ip, .mem (.lit 0) (.lit 0x0100)),
        (.cs, .mem (.lit 0) (.lit 0x0102))]
      accesses := [push 2 .flags, push 4 .cs, push 6 .ip]
      acks := [] }
  .form form form

/-- The registers come from memory, the pushed words from the registers as they were at the event. -/
theorem test_entry_depends_on_state :
    nextIs (takeInterrupt .nmi { base with
        params := { params with intEntry := some pushes }
        regs := ⟨0x0246, 0x1111, 0x2222, 0, 0x0010, 0⟩ })
      (fun t => t.regs == ⟨0x0046, 0x1234, 0x5678, 0, 0x0010, 0⟩ &&
        t.pending == [⟨0x001FE, false, none, .memWrite .ss 0x0246⟩,
          ⟨0x001FC, false, none, .memWrite .ss 0x2222⟩,
          ⟨0x001FA, false, none, .memWrite .ss 0x1111⟩]) = true := by decide

/-- R60, D12: a form that reads the word at FFFFFH is refused; the word below it is read. -/
theorem test_entry_at_the_top :
    let e (off : Word) : IntEntry :=
      .form ⟨[(.ip, .mem (.lit 0xFFFF) (.lit off))], [], []⟩ ⟨[], [], []⟩
    let s (off : Word) : State := { base with params := { params with intEntry := some (e off) } }
    refusedWith (takeInterrupt .nmi (s 0x000F)) .wordAtTopOfMemory = true ∧
    nextIs (takeInterrupt .nmi (s 0x000E)) (fun t => t.regs.ip == 0xFFEE) = true := by decide

/-- R159, D41: the acknowledge cycle reads what `int_entry` gave. -/
theorem test_acknowledge_reads_the_entry :
    nextIs (exec (.xferWEven 0 .intAck) { base with acks := [0x0042, 0x0043] })
      (fun t => t.received == .word 0x0042 && t.acks == [0x0043]) = true := by decide

/-- R190: with a data cycle of the ended instruction on the bus the response is held, and begins once
the cycle has run. -/
theorem test_response_waits_for_the_cycles :
    let s := { atEnd true false with
      bus := .cycle .t4 ⟨0x100, false, none, .memRead .ds⟩
      params := { params with intEntry := some entry } }
    nextIs (step s) (fun t => t.responseDue && t.events == []) = true ∧
    nextIs (Out.andThen (step s) step)
      (fun t => t.turn == .instrEnd && t.received == .word 0x1234 && t.events == []) = true ∧
    nextIs (Out.andThen (Out.andThen (step s) step) step) (fun t => t.events == [.nmiResponse]) = true := by
  decide

/-! ### Witnesses: states and operands that meet the hypotheses of the obligations -/

/-- Every row, at an end of its range. -/
theorem wit_DecodeOfEncodeIsTheInstruction :
    (Instr.xferWEven 0xFFFFE .fetch).wellFormed = true ∧
    (Instr.xferBEven 0x00000 .ioRead).wellFormed = true ∧
    (Instr.xferBOdd 0xFFFFF (.memWrite .ss 0xFFFF)).wellFormed = true ∧
    (Instr.xferWOdd1 0xFFFFD ⟨.memRead .es, 0⟩).wellFormed = true ∧
    (Instr.xferWOdd2 0xFFFFE ⟨.intAck, 0⟩).wellFormed = true ∧
    Instr.wait.wellFormed = true := by decide

theorem wit_EncodeOfDecodeIsTheCode :
    decode ⟨.fetch, none⟩ (.t1 0x0FFFFE) = .ok (.xferWEven 0xFFFFE .fetch) ∧
    (Instr.xferWEven 0xFFFFE .fetch).row? = some .wEven := by decide

theorem wit_ObserverTellsThreeCases :
    Row.wOdd2 ∈ candidates 0x100102 ∧ Row.wOdd1 ∈ candidates 0x0FFFFF := by decide

theorem wit_PinsCarryTheT1Word :
    (onBus .t1 ⟨0xFFFF0, false, none, .fetch⟩).bus =
      .cycle .t1 ⟨0xFFFF0, false, none, .fetch⟩ ∧
    (onBus .t1 ⟨0xFFFF0, false, none, .fetch⟩).input.env.reset = false := by decide

theorem wit_MemoryReadsDeliver :
    (Instr.xferWEven 0xFFFFE (.memRead .ds)).wellFormed = true ∧
    (Instr.xferBEven 0x00000 (.memRead .ds)).wellFormed = true ∧
    (Instr.xferBOdd 0xFFFFF (.memRead .ds)).wellFormed = true ∧
    (Instr.xferWOdd1 0xFFFFD ⟨.memRead .ds, 0⟩).wellFormed = true ∧
    (Instr.xferWOdd2 0x00002 ⟨.memRead .ds, 0⟩).wellFormed = true := by decide

theorem wit_MemoryWritesStore :
    base.queued 0xFFFFE = false ∧ base.queued (0xFFFFE + 1) = false ∧
    (Instr.xferWEven 0xFFFFE (.memWrite .ds 0xBEEF)).wellFormed = true ∧
    base.queued 0x00000 = false ∧ (Instr.xferBEven 0x00000 (.memWrite .ds 1)).wellFormed = true ∧
    base.queued 0xFFFFF = false ∧ (Instr.xferBOdd 0xFFFFF (.memWrite .ds 1)).wellFormed = true ∧
    base.queued 0x00001 = false ∧ (Instr.xferWOdd1 0x00001 ⟨.memWrite .ds 1, 0⟩).wellFormed = true ∧
    base.queued 0x00002 = false ∧
    (Instr.xferWOdd2 0x00002 ⟨.memWrite .ds 1, 0⟩).wellFormed = true := by decide

theorem wit_PortReadsDeliver :
    (0x0FFFE : Addr).toNat < base.params.portCount ∧
    (0x0FFFE + 1 : Addr).toNat < base.params.portCount ∧
    (Instr.xferWEven 0x0FFFE .ioRead).wellFormed = true ∧
    (Instr.xferBEven 0x0FFFE .ioRead).wellFormed = true ∧
    (0x0FFFF : Addr).toNat < base.params.portCount ∧
    (Instr.xferBOdd 0x0FFFF .ioRead).wellFormed = true ∧
    (Instr.xferWOdd1 0x0FFFF ⟨.ioRead, 0⟩).wellFormed = true ∧
    (Instr.xferWOdd2 0x0FFFE ⟨.ioRead, 0⟩).wellFormed = true := by decide

theorem wit_PortWritesStore :
    (0x0FFFE : Addr).toNat < base.params.portCount ∧
    (0x0FFFE + 1 : Addr).toNat < base.params.portCount ∧
    (Instr.xferWEven 0x0FFFE (.ioWrite 0x0201)).wellFormed = true ∧
    (Instr.xferBEven 0x0FFFE (.ioWrite 1)).wellFormed = true ∧
    (0x0FFFF : Addr).toNat < base.params.portCount ∧
    (Instr.xferBOdd 0x0FFFF (.ioWrite 0x3C00)).wellFormed = true ∧
    (Instr.xferWOdd1 0x0FFFF ⟨.ioWrite 0x3C00, 0⟩).wellFormed = true ∧
    (Instr.xferWOdd2 0x0FFFE ⟨.ioWrite 1, 0⟩).wellFormed = true := by decide

theorem wit_FetchesFillTheQueue :
    base.queue.length + 1 ≤ base.params.queueLen ∧
    base.queue.length + 2 ≤ base.params.queueLen ∧
    (Instr.xferWEven 0xFFFF0 .fetch).wellFormed = true ∧
    (Instr.xferBEven 0xFFFF0 .fetch).wellFormed = true ∧
    (Instr.xferBOdd 0xFFFFF .fetch).wellFormed = true ∧
    (Instr.xferWOdd1 0xFFFFD ⟨.fetch, 0⟩).wellFormed = true ∧
    (Instr.xferWOdd2 0xFFFFE ⟨.fetch, 0⟩).wellFormed = true := by decide

theorem wit_AcknowledgeCyclesComplete :
    (Instr.xferWEven 0x00000 .intAck).wellFormed = true ∧
    (Instr.xferBEven 0x00000 .intAck).wellFormed = true ∧
    (Instr.xferBOdd 0xFFFFF .intAck).wellFormed = true ∧
    (Instr.xferWOdd1 0xFFFFD ⟨.intAck, 0⟩).wellFormed = true ∧
    (Instr.xferWOdd2 0xFFFFE ⟨.intAck, 0⟩).wellFormed = true := by decide

/-- Both sides of the refusal occur: a queued and an unqueued byte. -/
theorem wit_WritesToQueuedBytesAreRefused :
    refusedWith (exec (.xferWEven 0x100 (.memWrite .ds 1)) { base with queue := [⟨0x101, 0⟩] })
      .writeToQueuedInstruction = true ∧
    refusedWith (exec (.xferBEven 0x100 (.memWrite .ds 1)) { base with queue := [⟨0x101, 0⟩] })
      .writeToQueuedInstruction = false ∧
    ((0x101 : Addr) ≠ 0xFFFFF) ∧ ((0x102 : Addr) ≠ 0) := by decide

theorem wit_WordAtTopOfMemoryIsRefused :
    base.offered { req := some ⟨0xFFFFF, false, some 0, .fetch⟩ } =
      some ⟨0xFFFFF, false, some 0, .fetch⟩ ∧
    refusedWith (State.startOrIdle { base with params := { params with fetchKind := .anyRow } }
      { req := some ⟨0xFFFFF, false, some 0, .fetch⟩ }) .wordAtTopOfMemory = true ∧
    (0xFFFFD : Addr).getLsbD 0 = true ∧ (0xFFFFD : Addr) ≠ 0xFFFFF := by decide

/-- EU begins a word access at FFFFFH, at the odd address below, a byte access at FFFFFH, none. -/
theorem wit_WordAtTopOfMemoryIsRefused_begins :
    let top : Access := ⟨0xFFFFF, true, .memRead .ds, 0⟩
    let s := scripted [{ env := env, eu := { access := some top } }]
    s.input.eu.access = some top ∧ top.wide = true ∧ s.turn = .bus ∧ s.waiting = false ∧
    s.input.env.mnmx = modeLevel s.params.mode ∧ s.input.env.reset = false ∧
    refusedWith (step s) .wordAtTopOfMemory = true ∧
    (Access.requests ⟨0xFFFFD, true, .memRead .ds, 0⟩).isSome = true ∧
    Access.requests ⟨0xFFFFF, false, .memRead .ds, 0⟩ =
      some [⟨0xFFFFF, false, none, .memRead .ds⟩] ∧
    base.input.eu.access = none := by decide

/-- The first port that is none; a full queue; a word fetch with one place free; a port's cycle. -/
theorem wit_MissingPortsAndFullQueuesStop :
    (0x10000 : Addr) ≠ 0xFFFFF ∧ base.params.portCount ≤ (0x10000 : Addr).toNat ∧
    (let s : State := { base with queue := List.replicate 6 ⟨0, 0⟩ }
     (Instr.xferBEven 0xFFFF0 .fetch).wellFormed = true ∧ s.params.queueLen < s.queue.length + 1) ∧
    (let s : State := { base with queue := List.replicate 5 ⟨0, 0⟩ }
     (Instr.xferWEven 0xFFFF0 .fetch).wellFormed = true ∧ s.params.queueLen < s.queue.length + 2 ∧
     refusedWith (exec (.xferWEven 0xFFFF0 .fetch) s) .queueOverflow = true) ∧
    base.offered { req := some ⟨0x0FFFE, false, none, .ioRead⟩ } =
      some ⟨0x0FFFE, false, none, .ioRead⟩ ∧
    nextIs (base.startOrIdle { req := some ⟨0x0FFFE, false, none, .ioRead⟩ }) (fun _ => true) =
      true := by decide

/-- A read, a write of memory, a write of a port, a fetch: each gives a next state. -/
theorem wit_TransfersLeaveTheRest :
    (∃ t, exec (.xferWEven 0x100 (.memRead .ds)) base = .next t) ∧
    (∃ t, exec (.xferWOdd1 0x101 ⟨.memWrite .ds 1, 0⟩) base = .next t) ∧
    (∃ t, exec (.xferBOdd 0x061 (.ioWrite 0x3C00)) base = .next t) ∧
    (∃ t, exec (.xferBEven 0x100 .fetch) base = .next t) :=
  ⟨⟨_, rfl⟩, ⟨_, rfl⟩, ⟨_, rfl⟩, ⟨_, rfl⟩⟩

theorem wit_WritesTouchOnlyTheirBytes :
    base.mem.wf = true ∧ (Instr.xferWEven 0xFFFFE (.memWrite .ds 0xBEEF)).wellFormed = true ∧
    (∃ t, exec (.xferWEven 0xFFFFE (.memWrite .ds 0xBEEF)) base = .next t) ∧
    (∃ t, exec (.xferBEven 0x00000 (.memWrite .ds 1)) base = .next t) ∧
    (∃ t, exec (.xferWOdd2 0x00002 ⟨.memWrite .ds 1, 0⟩) base = .next t) ∧
    (∃ t, exec (.xferBOdd 0xFFFFF (.memWrite .ds 1)) base = .next t) ∧
    (∃ t, exec (.xferWOdd1 0xFFFFD ⟨.memWrite .ds 1, 0⟩) base = .next t) :=
  ⟨by decide, by decide, ⟨_, rfl⟩, ⟨_, rfl⟩, ⟨_, rfl⟩, ⟨_, rfl⟩, ⟨_, rfl⟩⟩

/-- Even and odd, at both ends of the range. -/
theorem wit_AccessesSelectTheirRows :
    (0x00000 : Addr).getLsbD 0 = false ∧ (0xFFFFF : Addr).getLsbD 0 = true ∧
    (0xFFFFD : Addr).getLsbD 0 = true ∧ (0xFFFFD : Addr) ≠ 0xFFFFF := by decide

theorem wit_MemoryIsLittleEndian : (0xFFFFE : Addr) ≠ 0xFFFFF ∧ (0x00101 : Addr) ≠ 0xFFFFF := by
  decide

/-- The highest odd word of memory, the highest byte, and the highest word of ports. -/
theorem wit_WordReadsBackWhatWasWritten :
    (0xFFFFD : Addr) ≠ 0xFFFFF ∧ base.mem.wf = true ∧ base.queued 0xFFFFD = false ∧
    base.queued (0xFFFFD + 1) = false ∧ base.queued 0xFFFFF = false ∧ base.io.wf = true ∧
    (0x0FFFE : Addr).toNat < base.params.portCount ∧
    base.params.storagePort (0x0FFFE : Addr).toNat = true ∧
    (0x0FFFE + 1 : Addr).toNat < base.params.portCount ∧
    base.params.storagePort (0x0FFFE + 1 : Addr).toNat = true := by decide

theorem wit_OddWordIsWrittenInHalves :
    (0x00101 : Addr).getLsbD 0 = true ∧ (0x00101 : Addr) ≠ 0xFFFFF ∧ base.mem.wf = true ∧
    base.queued 0x00101 = false ∧ base.queued (0x00101 + 1) = false := by decide

theorem wit_EffectFollowsTheLanes :
    base.mem.wf = true ∧
    (∃ t, base.effect ⟨0xFFFFF, false, none, .memWrite .ds 0xA500⟩ = .next t) ∧
    (∃ t, base.effect ⟨0x00100, false, none, .memRead .ds⟩ = .next t) :=
  ⟨by decide, ⟨_, rfl⟩, ⟨_, rfl⟩⟩

/-- T3 with READY low and high, T4, and EU's move. -/
theorem wit_TStatesFollowInOrder :
    nextIs (step { onBus .t3 ⟨0x100, false, none, .memRead .ds⟩ with script := [notReady] })
      (fun t => t.bus.t == .tw) = true ∧
    nextIs (step (onBus .tw ⟨0x100, false, none, .memRead .ds⟩)) (fun t => t.bus.t == .t4) = true ∧
    nextIs (step (onBus .t4 ⟨0x100, false, none, .memRead .ds⟩)) (fun t => t.bus.t == .ti) = true ∧
    nextIs (step { base with turn := .start, program := [.ret] }) (fun t => t.bus.t == .ti) =
      true := by decide

/-- The states of the run from `s`, as long as it goes on. -/
def run (s : State) : Nat → State
  | 0 => s
  | n + 1 =>
    match step (run s n) with
    | .next t => t
    | .fault _ => run s n
    | .refused _ => run s n

/-- V40.3: READY = 0, 0, 1 from T3 on; and a cycle kept in TW. -/
theorem wit_BusCycleLastsFourPlusWaits :
    (let r : Request := ⟨0x100, false, none, .memRead .ds⟩
     let low := [notReady, notReady]
     let s := { onBus .t1 r with script := notReady :: notReady :: (low ++ quiet :: []) }
     s.turn = .bus ∧ s.waiting = false ∧ s.responseDue = false ∧ s.bus = .cycle .t1 r ∧ calm s.params notReady = true ∧
     (∀ i ∈ low, calm s.params i = true ∧ i.env.ready = false) ∧ calm s.params quiet = true ∧
     quiet.env.ready = true ∧ s.script = notReady :: notReady :: (low ++ quiet :: [])) ∧
    (let r : Request := ⟨0x100, false, none, .memRead .ds⟩
     let low := [notReady, notReady]
     let s := { onBus .tw r with script := low ++ [quiet] }
     s.turn = .bus ∧ s.waiting = false ∧ s.responseDue = false ∧ s.bus = .cycle .tw r ∧
     (∀ i ∈ low, calm s.params i = true ∧ i.env.ready = false) ∧ s.script = low ++ [quiet]) := by
  decide

/-- A run of four T states, from T1 through one TW, that is `ReadyFair`. -/
theorem wit_BusCycleLastsFourPlusWaits_fair :
    let ρ := run { onBus .t1 ⟨0x100, false, none, .memRead .ds⟩ with
      script := [quiet, quiet, notReady, quiet] }
    IsRun (some 4) ρ ∧ ReadyFair (some 4) ρ ∧ InRun (some 4) 0 ∧
      (ρ 0).bus = .cycle .t1 ⟨0x100, false, none, .memRead .ds⟩ := by
  intro ρ
  have hr : ∀ n, n < 4 → step (ρ n) = .next (ρ (n + 1)) := by
    intro n hn
    match n, hn with
    | 0, _ => rfl
    | 1, _ => rfl
    | 2, _ => rfl
    | 3, _ => rfl
  have h4 : (ρ 4).bus = .cycle .t4 ⟨0x100, false, none, .memRead .ds⟩ := rfl
  refine ⟨fun n hn => hr n (hn 4 rfl), fun n ph r hn hb hp => ⟨3, ?_, ?_, .inr ?_⟩, ?_, rfl⟩
  · have := hn 4 rfl
    by_contra hlt
    have : n = 4 := by omega
    subst this
    rw [h4] at hb
    cases hb
    exact hp rfl
  · intro l hl; cases hl; decide
  · exact ⟨rfl, .inr rfl, rfl⟩
  · intro l hl; omega

/-- V40.21: the T state TW of a word write. -/
theorem wit_NothingMovesBeforeT4 :
    (onBus .tw ⟨0x200, false, none, .memWrite .ds 0x9988⟩).bus.t ≠ .t4 ∧
    (onBus .tw ⟨0x200, false, none, .memWrite .ds 0x9988⟩).input.env.reset = false ∧
    ∃ t, step (onBus .tw ⟨0x200, false, none, .memWrite .ds 0x9988⟩) = .next t :=
  ⟨by decide, by decide, ⟨_, rfl⟩⟩

theorem wit_ReadyIsReadInT3AndTwOnly :
    base.turn = .bus ∧ base.bus.t ≠ .t3 ∧ base.bus.t ≠ .tw ∧
    (onBus .t4 ⟨0x100, false, none, .memRead .ds⟩).bus.t ≠ .tw := by decide

theorem wit_TestIsIgnoredOutsideTheWait : base.turn = .bus ∧ base.waiting = false := by decide

theorem wit_IntrIsReadInTheLastClockOnly :
    base.turn = .bus ∧ base.waiting = false ∧ base.input.eu.instrLastClock = false := by decide

theorem wit_LatchLoadsInT1Only :
    (∃ t, step { onBus .t1 ⟨0x12345, false, none, .memRead .ds⟩ with latch := ⟨0, true⟩ } =
      .next t ∧ t.latch = { addr := 0x12345, bhe := false }) ∧
    (∃ t, step (onBus .t2 ⟨0x12345, false, none, .memRead .ds⟩) = .next t) :=
  ⟨⟨_, rfl, rfl⟩, ⟨_, rfl⟩⟩

theorem wit_StepRunsTheCyclesInstruction :
    let r : Request := ⟨0x00102, true, some 0, .memRead .ds⟩
    let s := onBus .t4 r
    (let w := { onBus .t4 r with waiting := true }
     w.waiting = true ∧ nextIs (step w) (fun t => t.waiting && t.bus == .idle) = true) ∧
    s.turn = .bus ∧ s.waiting = false ∧ s.input.env.mnmx = modeLevel s.params.mode ∧
    s.input.env.reset = false ∧ s.input.eu.access = none ∧ s.bus = .cycle .t4 r ∧
    decode ⟨r.op, r.half⟩ (.t1 (t1Word r.bhe r.addr)) =
      .ok (.xferWOdd2 0x00102 ⟨.memRead .ds, 0⟩) := by decide

/-- TI with a request offered and with none, and T1. -/
theorem wit_StepRunsTheCyclesInstruction_idle :
    let r : Request := ⟨0x00102, false, none, .memRead .ds⟩
    let s := scripted [{ env := env, eu := { req := some r } }]
    s.turn = .bus ∧ s.waiting = false ∧ s.bus = .idle ∧ s.input.eu.access = none ∧
    s.input.env.mnmx = modeLevel s.params.mode ∧ s.input.env.reset = false ∧
    s.offered s.input.eu = some r ∧ s.objection r = none ∧
    nextIs (step s) (fun t => t.bus == .cycle .t1 r) = true ∧
    base.bus = .idle ∧ base.offered base.input.eu = none ∧
    (onBus .t1 r).bus = .cycle .t1 r ∧ Phase.t1 ≠ .t4 := by decide

/-- WAIT's byte, and a byte the spec does not describe. -/
theorem wit_StepRunsEusInstruction :
    ((State.reset.withFetchWord 8 0x9B).waiting = false ∧
      (State.reset.withFetchWord 8 0x9B).action = .instr 0x9B ∧
      (State.reset.withFetchWord 8 0x9B).turn = .start ∧
      decode Instr.wait.known (.byte 0x9B) = .ok .wait) ∧
    ((atEnd false false).waiting = false ∧ (atEnd false false).action = .instr 0x90 ∧
      (atEnd false false).turn = .instrEnd ∧ (atEnd false false).chosenInterrupt = none ∧
      ∀ k i, decode k (.byte 0x90) ≠ .ok i) :=
  ⟨by decide, by decide, by decide, by decide, by decide, fun k i => by cases i <;> simp [decode, decodeByte]⟩

/-- V42.13. -/
theorem wit_NoByteSelectedIsRefused :
    base.offered { req := some ⟨0x00101, true, none, .memRead .ds⟩ } =
      some ⟨0x00101, true, none, .memRead .ds⟩ := by decide

/-- EU goes on with a response's request, or offers a fetch of its own before it, or nothing. -/
theorem wit_OnlyFetchesStartWhileWaiting_offers :
    let s := { base with pending := [⟨0, false, none, .intAck⟩] }
    s.pending = ⟨0, false, none, .intAck⟩ :: [] ∧
    s.objection ⟨0, false, none, .intAck⟩ = none ∧
    s.objection (.wordFetch 0x200) = none ∧
    s.objection ⟨0x101, true, none, .memRead .ds⟩ = some .noByteSelected ∧
    base.pending = [] := by decide

/-- A data request outside a wait, and one at the last port. -/
theorem wit_OnlyFetchesStartWhileWaiting_admits :
    let r : Request := ⟨0xFFFFE, false, none, .memWrite .es 1⟩
    let p : Request := ⟨0x0FFFF, false, none, .ioRead⟩
    base.offered { req := some r } = some r ∧ base.waiting = false ∧
    base.firstFetchDue = false ∧ r.addr.getLsbD 0 = false ∧ r.half = none ∧
    nextIs (base.startOrIdle { req := some r }) (fun t => t.bus == .cycle .t1 r) = true ∧
    base.offered { req := some p } = some p ∧ p.addr.toNat < base.params.portCount ∧
    nextIs (base.startOrIdle { req := some p }) (fun t => t.bus == .cycle .t1 p) = true := by
  decide

/-- V43.11, V43.12. -/
theorem wit_OnlyFetchesStartWhileWaiting :
    (waitingOn quiet).waiting = true ∧
    (waitingOn quiet).offered { req := some (.wordFetch 0x00200) } =
      some (.wordFetch 0x00200) ∧
    (waitingOn quiet).firstFetchDue = false ∧
    Request.fetchKindOk (.wordFetch 0x00200) base.params.fetchKind = true ∧
    Request.fetchKindOk ⟨0x00201, false, none, .fetch⟩ base.params.fetchKind = true ∧
    Request.fetchKindOk ⟨0x00202, true, some 0, .fetch⟩ .anyRow = true ∧
    nextIs ((waitingOn quiet).startOrIdle { req := some ⟨0x00201, false, none, .fetch⟩ })
      (fun t => t.waiting) = true ∧
    (waitingOn quiet).offered { req := some ⟨0x00200, false, none, .memRead .ds⟩ } =
      some ⟨0x00200, false, none, .memRead .ds⟩ ∧
    BusOp.memRead .ds ≠ .fetch := by decide

/-- V70.2: the first request taken after RESET. -/
theorem wit_FirstCycleAfterResetIsTheFetch :
    State.reset.firstFetchDue = true ∧ State.reset.waiting = false ∧ State.reset.bus.t = .ti ∧
    State.reset.offered { req := some (.wordFetch 0xFFFF0) } = some (.wordFetch 0xFFFF0) ∧
    nextIs (step { State.reset with
        script := [{ env := env, eu := { req := some (.wordFetch 0xFFFF0) } }] })
      (fun t => t.bus == .cycle .t1 (.wordFetch 0xFFFF0)) = true := by decide

/-- The strap held, and the strap moved. -/
theorem wit_ModeChangeIsRefused :
    base.turn = .bus ∧ base.input.env.mnmx = modeLevel base.params.mode ∧
    (scripted [{ env := { env with mnmx := false }, eu := {} }]).input.env.mnmx ≠
      modeLevel base.params.mode := by decide

/-- V70.1. -/
theorem wit_ResetClearsTheRegistersAndTheQueue :
    (scripted [resetInput]).turn = .bus ∧
    (scripted [resetInput]).input.env.mnmx = modeLevel (scripted [resetInput]).params.mode ∧
    (scripted [resetInput]).input.env.reset = true := by decide

theorem wit_ResetEndsTheCurrentOperation :
    (waitingOn resetInput).turn = .bus ∧ (waitingOn resetInput).input.env.reset = true ∧
    ∃ t, step (waitingOn resetInput) = .next t :=
  ⟨by decide, by decide, ⟨_, rfl⟩⟩

/-- V70.3, V70.5: a read in T2, and a byte write at an odd address in T1. -/
theorem wit_ResetKeepsMemoryButAbandonedBytes :
    base.mem.wf = true ∧ base.io.wf = true ∧
    (∃ t, step { onBus .t3 ⟨0x060, false, none, .ioWrite 0x5A3C⟩ with script := [resetInput] } =
      .next t) ∧
    (∃ t, step { onBus .t2 ⟨0x100, false, none, .memRead .ds⟩ with script := [resetInput] } =
      .next t) ∧
    opWdata (.memRead .ds) = none ∧
    (∃ t, step { onBus .t1 ⟨0x301, false, none, .memWrite .ds 0x5A00⟩ with
      script := [resetInput] } = .next t) ∧
    Request.high ⟨0x301, false, none, .memWrite .ds 0x5A00⟩ = true ∧
    Request.low ⟨0x301, false, none, .memWrite .ds 0x5A00⟩ = false :=
  ⟨by decide, by decide, ⟨_, rfl⟩, ⟨_, rfl⟩, by decide, ⟨_, rfl⟩, by decide, by decide⟩

/-- V60.1, V60.2: a rise, and a steady high level. -/
theorem wit_NmiRisesAreLatched :
    nextIs (step (scripted [{ env := { env with nmi := true }, eu := {} }]))
      (fun t => t.nmiPending && t.nmiPrev) = true ∧
    nextIs (step { scripted [{ env := { env with nmi := true }, eu := {} }] with nmiPrev := true })
      (fun t => !t.nmiPending) = true := by decide

/-- V60.6, V60.7: IF = 1 and IF = 0 in the last clock. -/
theorem wit_IntrIsTestedInTheLastClock :
    nextIs (step { scripted [{ env := { env with intr := true }, eu := { instrLastClock := true } }]
        with regs := { Regs.atReset with flags := 0x0200 } })
      (fun t => t.intrAccept && t.turn == .instrEnd) = true ∧
    nextIs (step (scripted [{ env := { env with intr := true }, eu := { instrLastClock := true } }]))
      (fun t => !t.intrAccept) = true := by decide

/-- A response that is due: in the T4 of a data cycle, and before it. -/
theorem wit_RequestsAreAnsweredByPriority_due :
    let s (ph : Phase) := { onBus ph ⟨0x100, false, none, .memRead .ds⟩ with
      responseDue := true, nmiPending := true }
    (s .t4).turn = .bus ∧ (s .t4).input.env.reset = false ∧ (s .t4).waiting = false ∧
    (s .t4).responseDue = true ∧ nextIs (step (s .t4)) (fun t => t.cyclesDone) = true ∧
    nextIs (step (s .t3)) (fun t => !t.cyclesDone) = true ∧
    (let w := { atEnd true false with
      waiting := true, bus := .cycle .t3 ⟨0x100, false, none, .memRead .ds⟩ }
     w.turn = .instrEnd ∧ w.cyclesDone = false ∧ w.nmiPending = true ∧ w.waiting = true) := by
  decide

/-- With the bus idle, and with a data cycle on it. -/
theorem wit_RequestsAreAnsweredByPriority :
    (atEnd true true).cyclesDone = true ∧ (atEnd true true).waiting = false ∧
    ({ atEnd true true with bus := .cycle .t1 ⟨0x100, false, none, .memRead .ds⟩ } :
      State).cyclesDone = false ∧
    (atEnd true true).turn = .instrEnd ∧ (atEnd true true).nmiPending = true ∧
    (atEnd true true).intrAccept = true ∧ (atEnd true true).params.intPriority = .nmiFirst ∧
    (atEnd true false).intrAccept = false ∧ (atEnd false true).nmiPending = false := by decide

/-- R225: a fetch held in TW holds the response; the T state that READY ends lets it begin. -/
theorem test_held_fetch_holds_the_response :
    let s (ready : Bool) : State := { onBus .tw (.wordFetch 0x200) with
      nmiPending := true
      script := [{ env := { env with ready := ready }, eu := { instrLastClock := true } }] }
    nextIs (step (s false)) (fun t => t.turn == .instrEnd && !t.cyclesDone &&
      nextIs (step t) (fun u => u.responseDue && u.nmiPending && u.events == [])) = true ∧
    nextIs (step (s true)) (fun t => t.turn == .instrEnd && t.cyclesDone) = true := by decide

/-- R181, R215: with NMI pending no instruction begins while one is in execution; the first after RESET
does. -/
theorem test_no_instruction_before_the_response :
    let s (executing : Bool) : State := { scripted [{ env := env, eu := { start := true } }] with
      nmiPending := true, executing := executing }
    nextIs (step (s true)) (fun t => t.turn == .bus && t.nmiPending) = true ∧
    nextIs (step (s false)) (fun t => t.turn == .start && t.nmiPending) = true ∧
    (s false).turn = .bus ∧ (s false).input.env.reset = false ∧
    (onBus .tw (.wordFetch 0x200)).bus = .cycle .tw (.wordFetch 0x200) := by decide

/-- A form of both kinds, evaluated in `base`: IP becomes the word at 00100H. -/
theorem wit_ResponseHandsOverToIntEntry_form :
    let f : EntryForm := ⟨[(.ip, .mem (.lit 0x0010) (.lit 0))], [], [.lit 7]⟩
    entryResponse (.form f f) .nmi base = some ⟨[(.ip, 0x1234)], [], [7]⟩ ∧
    (.nmi = IntKind.nmi ∧ f = f) ∧
    base.mem.readWord 0xFFFFF = none ∧ base.mem.readWord 0x00100 = some 0x1234 ∧
    evalEntry base (.add (.lit 1) (.reg .cs)) = some 0 := by decide

/-- The second form accesses the word at FFFFFH. -/
theorem wit_ResponseHandsOverToIntEntry :
    base.params.intEntry = none ∧
    ({ base with params := { params with intEntry := some entry } } : State).params.intEntry =
      some entry ∧
    entryResponse entry .intr base =
      some ⟨[(.ip, 0x0100)], [⟨0, false, none, .intAck⟩], [0x0042]⟩ ∧
    (let f : EntryForm := ⟨[], [⟨.memRead .ds, true, .lit 0xFFFF, .lit 0x000F, .lit 0, 0⟩], []⟩
     entryResponse (.form f f) .nmi base = none) := by decide

theorem wit_InterruptsAreTakenAtInstructionEndsOnly :
    ∃ t, step { atEnd false true with params := { params with intEntry := some entry } } =
        .next t ∧ t.events = intEvent .intr :: (atEnd false true).events :=
  ⟨_, rfl, rfl⟩

theorem wit_MaskedIntrIsNeverAccepted :
    base.regs.ifFlag = false ∧ base.intrAccept = false ∧
    ∃ t, step (scripted [{ env := { env with intr := true }, eu := { instrLastClock := true } }]) =
      .next t :=
  ⟨by decide, by decide, ⟨_, rfl⟩⟩

/-- EU where it returns from a response. -/
def returning (nest : List Bool) : State :=
  { base with turn := .start, program := [.ret], nest := nest }

/-- WAIT begins a wait, and so does a return to one. -/
theorem wit_OnlyTheseEventsEndTheWait_begin :
    (∃ t, step (State.reset.withFetchWord 8 0x9B) = .next t ∧ t.waiting = true) ∧
    (State.reset.withFetchWord 8 0x9B).waiting = false ∧
    (∃ t, step (returning [true]) = .next t ∧ t.waiting = true) ∧
    (returning [true]).waiting = false :=
  ⟨⟨_, rfl, rfl⟩, rfl, ⟨_, rfl, rfl⟩, rfl⟩

/-- RESET, TEST and a response each end a wait. -/
theorem wit_OnlyTheseEventsEndTheWait :
    (∃ t, step (waitingOn testLowInput) = .next t ∧ t.waiting = false) ∧
    (∃ t, step (waitingOn resetInput) = .next t ∧ t.waiting = false) ∧
    (∃ t, step { atEnd true false with
        waiting := true
        params := { params with intEntry := some entry, waitInterruptible := true } } = .next t ∧
      t.waiting = false) ∧
    (waitingOn testLowInput).waitHolds = true ∧ (waitingOn resetInput).waitHolds = true ∧
    ({ atEnd true false with
        waiting := true
        params := { params with intEntry := some entry, waitInterruptible := true } } :
      State).waitHolds = true :=
  ⟨⟨_, rfl, rfl⟩, ⟨_, rfl, rfl⟩, ⟨_, rfl, rfl⟩, by decide, by decide, by decide⟩

/-- V43.1: TEST high, then low. -/
theorem wit_TestLowEndsTheWait :
    (waitingOn quiet).waiting = true ∧ (waitingOn quiet).nmiPending = false ∧
    (waitingOn quiet).input.env.nmi = false ∧ (waitingOn quiet).input.env.intr = false ∧
    (waitingOn quiet).input.env.test = true ∧ (waitingOn testLowInput).input.env.test = false ∧
    (waitingOn testLowInput).testSampled = true ∧
    (∃ t, step (waitingOn quiet) = .next t) ∧ (∃ t, step (waitingOn testLowInput) = .next t) :=
  ⟨by decide, by decide, by decide, by decide, by decide, by decide, by decide, ⟨_, rfl⟩,
    ⟨_, rfl⟩⟩

/-- V43.8, V43.10. -/
theorem wit_InterruptDuringWaitIsRefused :
    let s := waitingOn { env := { env with nmi := true }, eu := {} }
    let s' := { waitingOn { env := { env with intr := true }, eu := {} } with
      regs := { Regs.atReset with flags := 0x0200 } }
    (s.turn = .bus ∧ s.input.env.mnmx = modeLevel s.params.mode ∧ s.input.env.reset = false ∧
      s.waiting = true ∧ s.params.waitInterruptible = false ∧ s.nmiPrev = false ∧
      s.input.env.nmi = true) ∧
    (s'.turn = .bus ∧ s'.input.env.mnmx = modeLevel s'.params.mode ∧
      s'.input.env.reset = false ∧ s'.waiting = true ∧ s'.params.waitInterruptible = false ∧
      s'.input.env.intr = true ∧ s'.regs.ifFlag = true) := by decide

/-- NMI pending, INTR high with IF = 1, each with TEST high and with TEST low. -/
theorem wit_InterruptedWaitIsExecutedAgain_begins :
    let p := { params with waitInterruptible := true }
    let w (test : Bool) : State := { waitingOn { env := { env with test := test }, eu := {} } with
      params := p, nmiPending := true }
    let i : State := { waitingOn { env := { env with intr := true }, eu := {} } with
      params := p, regs := { base.regs with flags := 0x0200 } }
    (w true).turn = .bus ∧ (w true).waiting = true ∧ (w true).input.env.reset = false ∧
    nextIs (step (w true)) (fun t => t.turn == .instrEnd && t.waiting) = true ∧
    (w false).testSampled = true ∧ (w false).input.env.test = false ∧
    nextIs (step (w false)) (fun t => t.turn == .instrEnd && !t.waiting) = true ∧
    (i.input.env.intr && i.regs.ifFlag) = true ∧
    nextIs (step i) (fun t => t.turn == .instrEnd && t.waiting && t.intrAccept) = true := by decide

/-- A response in a wait; and returns: to a WAIT, to no WAIT, and with no response in progress. -/
theorem wit_InterruptedWaitIsExecutedAgain :
    (∃ t, takeInterrupt .nmi { waitingOn quiet with
      params := { params with intEntry := some entry } } = .next t) ∧
    (returning [true]).waiting = false ∧ (returning [true]).action = .ret ∧
    (returning [true]).turn = .start ∧ (returning [true]).nest = true :: [] ∧
    (returning [false]).nest = false :: [] ∧ (returning []).nest = [] :=
  ⟨⟨_, rfl⟩, rfl, rfl, rfl, rfl, rfl, rfl⟩

/-- Five T states of TEST low under the default `TEST_POLL_MAX`. -/
theorem wit_FairTestEndsTheWait :
    let low := List.replicate 5 testLowInput
    let s := { waitingOn quiet with params := Params.standard, script := low ++ [quiet] }
    s.turn = .bus ∧ s.waiting = true ∧ s.bus = .idle ∧ s.pending = [] ∧ s.nmiPending = false ∧
    s.pollBound = true ∧ (∀ i ∈ low, testLow s.params s.nmiPrev i = true) ∧
    low.length = max 1 s.params.testPollMax ∧ s.script = low ++ [quiet] := by decide

/-- A run of one T state of a wait, TEST being low in it, under `TEST_POLL_MAX` = 1. -/
theorem wit_FairTestEndsTheWait_fair :
    let ρ := run (waitingOn testLowInput)
    IsRun (some 1) ρ ∧ TestFair (some 1) ρ ∧ InRun (some 1) 0 ∧ (ρ 0).waiting = true ∧
      (ρ 0).pollBound = true := by
  intro ρ
  have hr : step (ρ 0) = .next (ρ 1) := rfl
  have h1 : (ρ 1).waiting = false := rfl
  refine ⟨fun n hn => ?_, fun n hn hw => ⟨n, 1, Nat.le_refl n, hn 1 rfl, ?_, .inr ⟨?_, ?_⟩⟩, ?_, rfl,
    by decide⟩
  · obtain rfl : n = 0 := by have := hn 1 rfl; omega
    exact hr
  · intro l hl; cases hl; exact Nat.le_refl 1
  all_goals try
    obtain rfl : n = 0 := by
      have := hn 1 rfl
      by_contra h
      obtain rfl : n = 1 := by omega
      rw [h1] at hw
      cases hw
  · rfl
  · intro j _ hj _
    obtain rfl : j = 0 := by omega
    rfl
  · intro l hl; omega

theorem wit_EveryStepKeepsTheInvariant : base.Inv ∧ ∃ t, step base = .next t :=
  ⟨⟨by decide, by decide, by decide, by decide, by decide, by decide, by decide, by decide, by decide⟩,
    ⟨_, rfl⟩⟩

theorem wit_ParametersAreConstant : ∃ t, step base = .next t := ⟨_, rfl⟩

theorem wit_EachBusStepIsOneTState :
    (base.turn = .bus ∧ ∃ t, step base = .next t) ∧
    ((atEnd false false).turn ≠ .bus ∧ ∃ t, step (atEnd false false) = .next t) :=
  ⟨⟨by decide, ⟨_, rfl⟩⟩, ⟨by decide, ⟨_, rfl⟩⟩⟩

/-- EU's instruction ends, and the next begins. -/
theorem wit_EachBusStepIsOneTState_places :
    let s (e : EuIn) := scripted [{ env := env, eu := e }]
    (s { instrLastClock := true }).responseDue = false ∧
    nextIs (step (s { instrLastClock := true })) (fun t => t.turn == .instrEnd) = true ∧
    nextIs (step (s { start := true })) (fun t => t.turn == .start) = true ∧
    nextIs (step (s {})) (fun t => t.turn == .bus) = true := by decide

/-- A T state of a wait, EU's move with no response, and a response. -/
theorem wit_RegistersHaveThreeWriters_none :
    nextIs (step (waitingOn { env := env, eu := { writes := [(.ip, 5)] } }))
      (fun t => t.regs == base.regs) = true ∧
    (atEnd false false).chosenInterrupt = none ∧
    nextIs (step (atEnd false false)) (fun t => t.regs == base.regs) = true ∧
    (let s := { atEnd false true with params := { params with intEntry := some entry } }
     s.turn = .instrEnd ∧ s.chosenInterrupt = some .intr ∧ s.cyclesDone = true ∧
     nextIs (step s) (fun t => t.regs.ip == 0x0100) = true) := by decide

/-- EU sets IF: FLAGS changes by EU's writes alone. -/
theorem wit_RegistersHaveThreeWriters :
    ∃ t, step (scripted [{ env := env, eu := { writes := [(.flags, 0x0200)] } }]) = .next t ∧
      t.regs.ifFlag = true :=
  ⟨_, rfl, by decide⟩

/-- V40.12 and V40.15. -/
theorem wit_SegmentCodesAreTheTables :
    (onBus .t2 ⟨0x100, false, none, .memRead .ss⟩).bus =
      .cycle .t2 ⟨0x100, false, none, .memRead .ss⟩ ∧ Phase.t2 ≠ .t1 ∧
    (onBus .t2 ⟨0x100, false, none, .ioRead⟩).input.env.reset = false := by decide

/-- V40.14: DS with IF = 1. -/
theorem wit_StatusPinsInTheDataPhase :
    let r : Request := ⟨0x100, false, none, .memRead .ds⟩
    let s := { onBus .t4 r with regs := { Regs.atReset with flags := 0x0200 } }
    s.bus = .cycle .t4 r ∧ Phase.t4 ≠ .t1 ∧ s.input.env.reset = false ∧
    s.pins.status = [.low, .high, .high, .high] := by decide

/-- File 95, P1 s3: TI before the first bus cycle, RESET just gone low. -/
theorem test_rd_before_the_first_cycle :
    ({ State.reset with script := [quiet] } : State).pins.rd = .high := by decide

/-- V40.22, V40.23. -/
theorem wit_RdMarksReads :
    base.input.env.reset = false ∧ base.pins.rd = .high ∧
    (scripted [resetInput]).input.env.reset = true ∧
    (onBus .t2 ⟨0x100, false, none, .memRead .ds⟩).pins.rd = .low ∧
    (onBus .t4 ⟨0x100, false, none, .memRead .ds⟩).pins.rd = .high ∧
    (onBus .t2 ⟨0x100, false, none, .memWrite .ds 1⟩).pins.rd = .high := by decide

/-- A write in T2 (V42.4), and T4 of a read (V42.5). -/
theorem wit_DataLinesCarryTheSelectedLanes :
    (let r : Request := ⟨0x00100, true, none, .memWrite .ds 0x005A⟩
     (onBus .t2 r).bus = .cycle .t2 r ∧ (onBus .t2 r).input.env.reset = false ∧
     Phase.t2 ≠ .t1 ∧ opWdata r.op = some 0x005A ∧ r.low = true) ∧
    (let r : Request := ⟨0x00101, false, none, .memRead .ds⟩
     (onBus .t4 r).bus = .cycle .t4 r ∧ (onBus .t4 r).input.env.reset = false ∧
     (onBus .t4 r).turn = .bus ∧ r.high = true ∧ ∃ t, step (onBus .t4 r) = .next t) ∧
    (∃ t, step (onBus .t4 ⟨0x060, false, none, .ioRead⟩) = .next t) ∧
    (∃ t, step (onBus .t4 ⟨0, false, none, .intAck⟩) = .next t) :=
  ⟨by decide, ⟨by decide, by decide, by decide, by decide, ⟨_, rfl⟩⟩, ⟨_, rfl⟩, ⟨_, rfl⟩⟩

theorem wit_PinBudget : (1 ≤ 23) ∧ (23 ≤ 40) ∧ (23 < 24 ∨ 31 < 23) ∧ (31 < 32) := by decide

end Sys2Proof.Tests
end

section
/-!
PROOFS. RESET: the next state of a T state in which RESET is high, said once, and what R28 says of it.
-/

namespace Sys2Proof.Machine

/-- A T state with RESET high, the strap at the mode's level, is `ResetStep` (R211) and no refusal. -/
theorem step_of_reset {s : State} (hturn : s.turn = .bus)
    (hstrap : s.input.env.mnmx = modeLevel s.params.mode) (hreset : s.input.env.reset = true) :
    step s = .next (s.resetStep s.input.env).tick := by
  rw [step_of_bus hturn, State.tStepOn, if_neg (by simp [hstrap]), if_pos hreset]

/-- IF is among the flags RESET clears (R28). -/
theorem Regs.atReset_ifFlag : Regs.atReset.ifFlag = false := by decide

/-- Settles O36: the next state is `ResetStep`'s, whose registers are `Regs.atReset`, whose queue is
empty and whose bus is idle by the laws of `resetStep`. -/
theorem resetClearsTheRegistersAndTheQueue :
    Obligations.ResetClearsTheRegistersAndTheQueue := by
  intro s hturn hstrap hreset
  have hbus : (s.resetStep s.input.env).tick.bus = .idle := by simp
  have hregs : (s.resetStep s.input.env).tick.regs = Regs.atReset := by simp
  refine ⟨_, step_of_reset hturn hstrap hreset, ?_⟩
  rw [hbus, hregs]
  exact ⟨rfl, by simp, rfl, Regs.atReset_ifFlag, rfl, rfl, rfl, rfl, rfl, by simp⟩

end Sys2Proof.Machine
end

section
/-!
PROOFS. The pins: their levels in the address phase and in the data phase of a bus cycle, each said once,
what R71, R74 and R84 say of them, and the pin table of R70 and R83.
-/

namespace Sys2Proof

/-- AD`k` carries bit `k` of the word (R76). -/
theorem wordLevels_getElem? (w : Word) {k : Nat} (hk : k < 16) :
    (wordLevels w)[k]? = some (Level.ofBool (w.getLsbD k)) := by
  simp [wordLevels, hk]

/-- Only pins 24 to 31 have different names in the two modes (R83). -/
theorem number_of_minName_ne_maxName :
    ∀ p ∈ allPins, p.minName ≠ p.maxName → 24 ≤ p.number ∧ p.number ≤ 31 := by decide

/-- Outside pins 24 to 31 a number has the same name in both modes, or in neither (R83). -/
theorem pinName_max_eq_min {n : Nat} (hn : n < 24 ∨ 31 < n) : pinName .max n = pinName .min n := by
  unfold pinName
  cases hfind : allPins.find? fun p => p.number == n with
  | none => rfl
  | some p =>
    have hnumber : p.number = n := by simpa using List.find?_some hfind
    have hname : p.minName = p.maxName := by
      by_contra hne
      have := number_of_minName_ne_maxName p (List.mem_of_find?_eq_some hfind) hne
      omega
    simp [hname]

/-- Settles O60: the tables and the counts are evaluated pin by pin; that the names of the other 32 pins
do not depend on the mode is `pinName_max_eq_min`. -/
theorem pinBudget : Obligations.PinBudget := by
  refine ⟨?minTable, ?maxTable, fun _ _ _ hn => pinName_max_eq_min hn, ?counts⟩
  case minTable => decide
  case maxTable => decide
  case counts => decide

namespace Machine

/-! ### The levels by the T state -/

/-- In T1 the pins show the address format (R71, R94). -/
theorem State.pins_of_t1 {s : State} {r : Request} (hbus : s.bus = .cycle .t1 r)
    (hreset : s.input.env.reset = false) : s.pins = addressPhasePins r := by
  rw [State.pins, hreset, hbus]; rfl

/-- In T1 AD`k` carries bit `k` of the address (R71). -/
theorem addressPhasePins_adCpu (r : Request) {k : Nat} (hk : k < 16) :
    (addressPhasePins r).adCpu[k]? = some (Level.ofBool (r.addr.getLsbD k)) := by
  have hbit : (r.addr.extractLsb' 0 16).getLsbD k = r.addr.getLsbD k := by simp [hk]
  rw [addressPhasePins, wordLevels_getElem? _ hk, hbit]

/-- From T2 to T4 the pins show the data and status format (R72, R95, R97). -/
theorem State.pins_of_data_phase {s : State} {ph : Phase} {r : Request} (hbus : s.bus = .cycle ph r)
    (hph : ph ≠ .t1) (hreset : s.input.env.reset = false) : s.pins = s.dataPhasePins ph r := by
  cases ph with
  | t1 => exact absurd rfl hph
  | t2 | t3 | tw | t4 => rw [State.pins, hreset, hbus]; rfl

/-- The levels of S4 S3 for a segment register (R74). -/
def segLevels : SegReg → Level × Level
  | .es => (.low, .low)
  | .ss => (.low, .high)
  | .cs => (.high, .low)
  | .ds => (.high, .high)

/-- From T2 to T4 S4 S3 show the segment register of the cycle's operation (R74). -/
theorem State.s4s3_of_data_phase {s : State} {ph : Phase} {r : Request} (hbus : s.bus = .cycle ph r)
    (hph : ph ≠ .t1) (hreset : s.input.env.reset = false) :
    (s.pins.a17s4, s.pins.a16s3) = segLevels (opSeg r.op) := by
  rw [State.pins_of_data_phase hbus hph hreset]
  unfold State.dataPhasePins
  cases opSeg r.op <;> rfl

/-! ### What the pins carry -/

/-- Settles O5: the levels are those of the address phase, and the bits and the code of the T1 word are
the laws of `t1Word`. -/
theorem pinsCarryTheT1Word : Obligations.PinsCarryTheT1Word := by
  refine ⟨fun s r hbus hreset => ?_, by decide, by decide⟩
  rw [State.pins_of_t1 hbus hreset]
  refine ⟨rfl, rfl, fun k hk => addressPhasePins_adCpu r hk, rfl, t1Bhe_t1Word r.bhe r.addr, ?_,
    t1Word_mask r.bhe r.addr⟩
  intro k hk
  rw [t1Word_getLsbD, if_pos hk]

/-- Settles O55: S4 S3 show the register of the operation, which is CS where a request names none. -/
theorem segmentCodesAreTheTables : Obligations.SegmentCodesAreTheTables := by
  refine ⟨fun s ph r hbus hph hreset => ?_, fun m => ?names⟩
  case names => cases m <;> decide
  rw [State.s4s3_of_data_phase hbus hph hreset]
  constructor
  · rintro seg w (hop | hop) <;> rw [hop] <;> cases seg <;> rfl
  · rintro w (hop | hop | hop | hop) <;> rw [hop] <;> rfl

end Machine

end Sys2Proof
end

section
/-!
PROOFS. The status phase: what pins 35 to 38 show in T2, T3, TW and T4 of every bus cycle (R185).
-/

namespace Sys2Proof.Machine

/-- From T2 to T4 pin 36 shows IF, whatever the cycle's operation (R185). -/
theorem State.s5_of_data_phase {s : State} {ph : Phase} {r : Request} (hbus : s.bus = .cycle ph r)
    (hph : ph ≠ .t1) (hreset : s.input.env.reset = false) :
    s.pins.a18s5 = Level.ofBool s.regs.ifFlag := by
  rw [State.pins_of_data_phase hbus hph hreset]; rfl

/-- From T2 to T4 pins 35 to 38 show S6 = 0, IF as S5, and the segment code as S4 S3 (R75, R95, R97). -/
theorem State.status_of_data_phase {s : State} {ph : Phase} {r : Request} (hbus : s.bus = .cycle ph r)
    (hph : ph ≠ .t1) (hreset : s.input.env.reset = false) :
    s.pins.status = [.low, Level.ofBool s.regs.ifFlag,
      Level.ofBool ((segCode (opSeg r.op)).getLsbD 1),
      Level.ofBool ((segCode (opSeg r.op)).getLsbD 0)] := by
  rw [State.pins_of_data_phase hbus hph hreset]; rfl

/-- Settles O56: S5 and the four status levels are those of the data phase, which is every T state of a
bus cycle but T1; the name of pin 36 is the same in both modes. -/
theorem statusPinsInTheDataPhase : Obligations.StatusPinsInTheDataPhase := by
  refine ⟨fun s ph r hbus hph hreset => ⟨?s5, ?status⟩, fun m => ?name⟩
  case s5 => exact State.s5_of_data_phase hbus hph hreset
  case status => exact State.status_of_data_phase hbus hph hreset
  case name => cases m <;> decide

end Sys2Proof.Machine
end

section
/-!
PROOFS. Encoding and decoding: the candidates of a T1 word by its transfer code, the round trip both ways,
and the words of the tables.
-/

namespace Sys2Proof

/-! ### The candidates of a T1 word -/

/-- The rows that share a transfer code BHE AD0 (R73, R160). -/
theorem candidates_eq (w : T1Word) :
    candidates w =
      match t1Bhe w, (t1Addr w).getLsbD 0 with
      | false, false => [Row.wEven]
      | true, false => [Row.bEven, Row.wOdd2]
      | false, true => [Row.bOdd, Row.wOdd1]
      | true, true => [] := by
  have hmask : w &&& 0x100001 =
      (if t1Bhe w then 0x100000 else 0) ||| (if (t1Addr w).getLsbD 0 then 1 else 0) := by
    rw [← t1Word_mask, t1Word_split]
  simp only [candidates, t1Rows, List.filter_cons, List.filter_nil, hmask]
  cases t1Bhe w <;> cases (t1Addr w).getLsbD 0 <;> rfl

/-- Decoding the T1 word of an address and a level of BHE: the transfer code, resolved by what EU knows. -/
theorem decodeT1_t1Word (k : EuKnows) (bhe : Bool) (a : Addr) :
    decodeT1 k (t1Word bhe a) =
      match bhe, a.getLsbD 0, k.half with
      | false, false, _ => .ok (.xferWEven a k.op)
      | true, false, none => .ok (.xferBEven a k.op)
      | true, false, some d => .ok (.xferWOdd2 a ⟨k.op, d⟩)
      | false, true, none => .ok (.xferBOdd a k.op)
      | false, true, some d => .ok (.xferWOdd1 a ⟨k.op, d⟩)
      | true, true, _ => .error .noByteSelected := by
  rw [decodeT1, t1Bhe_t1Word, t1Addr_t1Word]
  cases bhe <;> cases a.getLsbD 0 <;> cases k.half <;> rfl

/-- A transfer decoded from a T1 word has that word as its code, and its row is a candidate of the word. -/
theorem encode_of_decodeT1 {k : EuKnows} {w : T1Word} {i : Instr} (h : decodeT1 k w = .ok i) :
    encode i = .t1 w ∧ ∀ r, i.row? = some r → r ∈ candidates w := by
  obtain ⟨bhe, a, rfl⟩ : ∃ bhe a, w = t1Word bhe a := ⟨_, _, (t1Word_split w).symm⟩
  rw [decodeT1_t1Word] at h
  rw [candidates_eq, t1Bhe_t1Word, t1Addr_t1Word]
  split at h <;> cases h
  all_goals
    refine ⟨rfl, fun r hrow => ?_⟩
    have hbit0 := ‹a.getLsbD 0 = _›
    cases hrow
    simp only [hbit0]
    decide

/-! ### The obligations -/

/-- Settles O2: a well-formed transfer's address has the parity of its row, so the code of its T1 word and
the half EU knows of select that row. -/
theorem decodeOfEncodeIsTheInstruction : Obligations.DecodeOfEncodeIsTheInstruction := by
  intro i hwf
  cases i with
  | xferWEven a op | xferBEven a op | xferWOdd2 a op =>
    have heven : a.getLsbD 0 = false := by
      simp only [Instr.wellFormed, Bool.and_eq_true, Bool.not_eq_true'] at hwf
      exact hwf.1
    simp only [decode, encode, Instr.known, decodeT1_t1Word, heven]
  | xferBOdd a op =>
    have hodd : a.getLsbD 0 = true := by
      simp only [Instr.wellFormed, Bool.and_eq_true] at hwf
      exact hwf.1
    simp only [decode, encode, Instr.known, decodeT1_t1Word, hodd]
  | xferWOdd1 a op =>
    have hodd : a.getLsbD 0 = true := by
      simp only [Instr.wellFormed, Bool.and_eq_true] at hwf
      exact hwf.1.1
    simp only [decode, encode, Instr.known, decodeT1_t1Word, hodd]
  | wait => rfl

/-- Settles O3: a T1 word is made of its BHE and its address, which the decoded transfer keeps; of the
bytes only 9BH decodes. -/
theorem encodeOfDecodeIsTheCode : Obligations.EncodeOfDecodeIsTheCode := by
  intro k c i h
  cases c with
  | t1 w =>
    obtain ⟨hcode, hrow⟩ := encode_of_decodeT1 h
    exact ⟨hcode, fun w' r hw hr => by cases hw; exact hrow r hr⟩
  | byte b =>
    refine ⟨?_, fun _ _ hw => nomatch hw⟩
    simp only [decode, decodeByte] at h
    split at h
    · next hb => cases h; rw [hb]; rfl
    · cases h

/-- Settles O4: the candidates are those of the transfer code; of a pair, the byte transfer is what a cycle
that stands for itself decodes to, the other row what a half of a word does. -/
theorem observerTellsThreeCases : Obligations.ObserverTellsThreeCases := by
  intro w
  refine ⟨candidates_eq w, fun r hr => ?_⟩
  rw [candidates_eq] at hr
  simp only [decodeT1]
  revert hr
  cases t1Bhe w <;> cases (t1Addr w).getLsbD 0 <;> intro hr
  case false.false =>
    obtain rfl : r = .wEven := by simpa using hr
    exact ⟨bareKnowledge, _, rfl, rfl⟩
  case false.true =>
    obtain rfl | rfl : r = .bOdd ∨ r = .wOdd1 := by simpa using hr
    · exact ⟨bareKnowledge, _, rfl, rfl⟩
    · exact ⟨⟨.fetch, some 0⟩, _, rfl, rfl⟩
  case true.false =>
    obtain rfl | rfl : r = .bEven ∨ r = .wOdd2 := by simpa using hr
    · exact ⟨bareKnowledge, _, rfl, rfl⟩
    · exact ⟨⟨.fetch, some 0⟩, _, rfl, rfl⟩
  case true.true => simp at hr

/-- Settles O1: each word is evaluated. -/
theorem wordsOfTheTableDecode : Obligations.WordsOfTheTableDecode := by
  unfold Obligations.WordsOfTheTableDecode
  decide

end Sys2Proof
end

section
/-!
PROOFS. A T state in which RESET is low, said once for later proofs: what stands before the bus interface
takes its share, what the bus interface does, and where the wait and EU stand after it.
-/

namespace Sys2Proof.Machine

/-! ### The bus interface's share -/

/-- The T state after `ph` of the same bus cycle, READY being as examined (R93, R99); T4 has none. -/
def Phase.after (ready : Bool) : Phase → Phase
  | .t1 => .t2
  | .t2 => .t3
  | .t3 | .tw | .t4 => if ready then .t4 else .tw

/-- Before its T4 a bus cycle goes to its next T state, loading the latch in T1, and does nothing else. -/
theorem State.busStep_of_cycle {s : State} {i : TInput} {ph : Phase} {r : Request}
    (hbus : s.bus = .cycle ph r) (hph : ph ≠ .t4) :
    s.busStep i = .next { s with
      latch := if ph = .t1 then { addr := r.addr, bhe := r.bhe } else s.latch
      bus := .cycle (ph.after i.env.ready) r } := by
  unfold State.busStep
  rw [hbus]
  cases ph with
  | t4 => exact absurd rfl hph
  | t1 | t2 | t3 | tw => rfl

theorem State.busStep_of_idle {s : State} (hbus : s.bus = .idle) (i : TInput) :
    s.busStep i = s.startOrIdle i.eu := by
  rw [State.busStep, hbus]

theorem State.busStep_of_t4 {s : State} {r : Request} (hbus : s.bus = .cycle .t4 r) (i : TInput) :
    s.busStep i = Out.andThen (s.effect r) fun s' => s'.startOrIdle i.eu := by
  rw [State.busStep, hbus]

/-- `u` is the state in which the bus is free to take a request: the bus idles, or the cycle in T4 has
taken its effect (R101, R102). -/
def State.BusFree (s u : State) : Prop :=
  (s.bus = .idle ∧ u = s) ∨ ∃ r, s.bus = .cycle .t4 r ∧ s.effect r = .next u

theorem State.BusFree.frame {s u : State} (h : s.BusFree u) : ExecFrame s u := by
  rcases h with ⟨-, rfl⟩ | ⟨r, -, h⟩
  · constructor <;> rfl
  · exact State.effect_frame h

theorem State.BusFree.waiting {s u : State} (h : s.BusFree u) : u.waiting = s.waiting := by
  rcases h with ⟨-, rfl⟩ | ⟨r, -, h⟩
  · rfl
  · exact (State.effect_waiting h).1

/-- The bus interface takes a request or idles, or goes on with its cycle. -/
theorem State.busStep_cases {s t : State} {i : TInput} (h : s.busStep i = .next t) :
    (∃ u, s.BusFree u ∧ u.startOrIdle i.eu = .next t) ∨
    (∃ ph r, s.bus = .cycle ph r ∧ ph ≠ .t4 ∧ t = { s with
      latch := if ph = .t1 then { addr := r.addr, bhe := r.bhe } else s.latch
      bus := .cycle (ph.after i.env.ready) r }) := by
  cases hbus : s.bus with
  | idle => exact .inl ⟨s, .inl ⟨hbus, rfl⟩, by rwa [State.busStep_of_idle hbus] at h⟩
  | cycle ph r =>
    by_cases hph : ph = .t4
    · subst hph
      rw [State.busStep_of_t4 hbus] at h
      obtain ⟨u, hu, hs⟩ := Out.andThen_next.mp h
      exact .inl ⟨u, .inr ⟨r, hbus, hu⟩, hs⟩
    · rw [State.busStep_of_cycle hbus hph] at h
      exact .inr ⟨ph, r, rfl, hph, by cases h; rfl⟩

/-! ### The state before it -/

theorem State.waitStep_of_not_waiting {s : State} (h : s.waiting = false) (i : TInput) :
    s.waitStep i = .next s := by
  simp [State.waitStep, h]

/-- Outside a wait the wait has no share in a T state. -/
theorem State.waitStep_of_sampled {s : State} (h : s.waiting = false) (i j : TInput) :
    (s.leaveReset.sampleInterrupts i).waitStep j = .next (s.leaveReset.sampleInterrupts i) :=
  State.waitStep_of_not_waiting (s := s.leaveReset.sampleInterrupts i) h j

/-- What stands as in `s` when the bus interface takes its share of the T state: everything but NMI, of
which the T state has seen its level, the wait's and EU's own fields. -/
structure BeforeBus (s v : State) : Prop where
  params : v.params = s.params
  regs : v.regs = s.regs
  queue : v.queue = s.queue
  bus : v.bus = s.bus
  rdata : v.rdata = s.rdata
  nmiPrev : v.nmiPrev = s.input.env.nmi
  nmiPending : v.nmiPending = (s.nmiPending || (!s.nmiPrev && s.input.env.nmi))
  inReset : v.inReset = false
  latch : v.latch = s.latch
  mem : v.mem = s.mem
  io : v.io = s.io
  halves : v.halves = s.halves
  received : v.received = s.received
  nest : v.nest = s.nest
  acks : v.acks = s.acks
  firstFetchDue : v.firstFetchDue = s.firstFetchDue
  events : v.events = s.events
  clock : v.clock = s.clock
  script : v.script = s.script
  program : v.program = s.program

theorem beforeBus_of_parts {s s1 v : State}
    (h1 : (s.leaveReset.sampleInterrupts s.input).waitStep s.input = .next s1)
    (h2 : s1.beginAccess s.input.eu = .next v) : BeforeBus s v := by
  have f := State.waitStep_frame h1
  obtain ⟨rs, rfl⟩ := State.beginAccess_next h2
  exact ⟨f.params, f.regs, f.queue, f.bus, f.rdata, f.nmiPrev, f.nmiPending, f.inReset, f.latch, f.mem,
    f.io, f.halves, f.received, f.nest, f.acks, f.firstFetchDue, f.events, f.clock, f.script, f.program⟩

/-- A T state with RESET low: the wait's share gives `s1`, the access EU begins `v`, the bus interface
`w`, and EU's share the next state. -/
theorem tState_next {s t : State} (hturn : s.turn = .bus) (hreset : s.input.env.reset = false)
    (h : step s = .next t) :
    ∃ s1 v w, (s.leaveReset.sampleInterrupts s.input).waitStep s.input = .next s1 ∧
      BeforeBus s v ∧ v.waiting = s1.waiting ∧ v.busStep s.input = .next w ∧ BusFrame s1 w ∧
      t = (w.euEffects s.waiting s.input.eu).tick := by
  obtain ⟨s1, v, w, h1, h2, h3, ht⟩ := step_of_bus_next hturn hreset h
  have hv : v.waiting = s1.waiting := by obtain ⟨rs, rfl⟩ := State.beginAccess_next h2; rfl
  exact ⟨s1, v, w, h1, beforeBus_of_parts h1 h2, hv, h3, State.busPart_frame h2 h3, ht⟩

/-! ### What every such T state does -/

/-- The fields of which a T state with RESET low says the same whatever the bus and the wait do. -/
structure TStateFrame (s t : State) : Prop where
  params : t.params = s.params
  regs : t.regs = if s.waiting then s.regs else s.regs.writeAll s.input.eu.writes
  nmiPrev : t.nmiPrev = s.input.env.nmi
  nmiPending : t.nmiPending = (s.nmiPending || (!s.nmiPrev && s.input.env.nmi))
  inReset : t.inReset = false
  nest : t.nest = s.nest
  events : t.events = s.events
  clock : t.clock = s.clock + 1
  script : t.script = s.script.tail
  program : t.program = s.program

theorem tState_frame {s t : State} (hturn : s.turn = .bus) (hreset : s.input.env.reset = false)
    (h : step s = .next t) : TStateFrame s t := by
  obtain ⟨s1, v, w, h1, -, -, -, b, rfl⟩ := tState_next hturn hreset h
  have f := State.waitStep_frame h1
  constructor
  case params => simpa using b.params.trans f.params
  case regs =>
    have hregs : w.regs = s.regs := b.regs.trans f.regs
    simp [hregs]
  case nmiPrev => simpa using b.nmiPrev.trans f.nmiPrev
  case nmiPending => simpa using b.nmiPending.trans f.nmiPending
  case inReset => simpa using b.inReset.trans f.inReset
  case nest => simpa using b.nest.trans f.nest
  case events => simpa using b.events.trans f.events
  case clock => simpa using b.clock.trans f.clock
  case script =>
    have hscript : w.script = s.script := b.script.trans f.script
    simp [hscript]
  case program => simpa using b.program.trans f.program

/-! ### Where the wait and EU stand after it -/

/-- An interrupt is requested in the coming T state as a wait looks for it: NMI pending or rising, or INTR
with IF (R174). -/
def State.requested (s : State) : Bool :=
  (s.nmiPending || (!s.nmiPrev && s.input.env.nmi)) || s.intrAllowed s.input.env.intr

/-- Where EU stands after a T state in which it is in no wait (R101, R190). -/
def State.place (due done executing : Bool) (e : EuIn) : Turn :=
  if due then if done then .instrEnd else .bus
  else if e.instrLastClock then .instrEnd
  else if e.start && !executing then .start
  else .bus

/-- A T state outside a wait: the wait's fields stand, INTR is tested in an instruction's last clock. -/
structure NotWaiting (s t : State) : Prop where
  waiting : t.waiting = false
  sinceSample : t.sinceSample = s.sinceSample
  intrAccept : t.intrAccept =
    if s.input.eu.instrLastClock && !s.responseDue then s.intrAllowed s.input.env.intr
    else s.intrAccept
  responseDue : t.responseDue = (s.responseDue && !t.cyclesDone)
  executing : t.executing = (s.executing && (s.responseDue || !s.input.eu.instrLastClock))
  turn : t.turn = State.place s.responseDue t.cyclesDone s.executing s.input.eu

theorem tState_of_not_waiting {s t : State} (hturn : s.turn = .bus)
    (hreset : s.input.env.reset = false) (hwait : s.waiting = false) (h : step s = .next t) :
    NotWaiting s t := by
  obtain ⟨s1, v, w, h1, -, -, -, b, ht⟩ := tState_next hturn hreset h
  rw [hwait] at ht
  subst ht
  rcases State.waitStep_next h1 with ⟨-, rfl⟩ | ⟨hw, -⟩ | ⟨hw, -⟩ | ⟨hw, -⟩
  case inl =>
    have hww : w.waiting = false := b.waiting.trans hwait
    have hwt : w.turn = .bus := b.turn.trans hturn
    have hwd : w.responseDue = s.responseDue := b.responseDue
    have hwe : w.executing = s.executing := b.executing
    have hdone : ((w.euEffects false s.input.eu).tick).cyclesDone = w.cyclesDone := rfl
    refine ⟨hww, b.sinceSample, b.intrAccept, ?_, ?_, ?_⟩
    · rw [hdone]; simp [hwd]
    · simp [hww, hwd, hwe]
    · rw [hdone, State.tick_turn, State.euEffects_turn, hwt, hww, hwd, hwe]; rfl
  all_goals rw [show (s.leaveReset.sampleInterrupts s.input).waiting = s.waiting from rfl, hwait] at hw
  all_goals cases hw

/-- What a T state of a wait does. -/
inductive WaitTState (s t : State) : Prop
  /-- A request puts EU at a boundary; the wait is over only if TEST was examined and low (R174). -/
  | requested (hreq : s.requested = true) (hpar : s.params.waitInterruptible = true)
      (intrAccept : t.intrAccept = s.intrAllowed s.input.env.intr) (turn : t.turn = .instrEnd)
      (waiting : t.waiting = (s.input.env.test || !s.testSampled))
      (sinceSample : t.sinceSample = if s.testSampled then 0 else s.sinceSample + 1)
  /-- TEST, examined and low, ends it (R170). -/
  | ended (hreq : s.requested = false) (htest : s.input.env.test = false)
      (hsampled : s.testSampled = true) (waiting : t.waiting = false) (sinceSample : t.sinceSample = 0)
      (responseDue : t.responseDue = false)
      (turn : t.turn = if s.input.eu.instrLastClock then .instrEnd else .start)
      (executing : t.executing = (s.executing && !s.input.eu.instrLastClock))
      (intrAccept : t.intrAccept =
        if s.input.eu.instrLastClock && !s.responseDue then s.intrAllowed s.input.env.intr
        else s.intrAccept)
  /-- Otherwise it goes on (R171). -/
  | goesOn (hreq : s.requested = false) (htest : s.input.env.test = true ∨ s.testSampled = false)
      (waiting : t.waiting = true) (turn : t.turn = .bus)
      (sinceSample : t.sinceSample = if s.testSampled then 0 else s.sinceSample + 1)
      (intrAccept : t.intrAccept =
        if s.input.eu.instrLastClock && !s.responseDue then s.intrAllowed s.input.env.intr
        else s.intrAccept)

theorem tState_of_waiting {s t : State} (hturn : s.turn = .bus) (hreset : s.input.env.reset = false)
    (hwait : s.waiting = true) (h : step s = .next t) : WaitTState s t := by
  obtain ⟨s1, v, w, h1, -, -, -, b, ht⟩ := tState_next hturn hreset h
  rw [hwait] at ht
  subst ht
  rcases State.waitStep_next h1 with ⟨hw, -⟩ | ⟨-, hreq, hpar, rfl⟩ | ⟨-, hreq, htest, hsam, rfl⟩ |
    ⟨-, hreq, htest, rfl⟩
  · rw [show (s.leaveReset.sampleInterrupts s.input).waiting = s.waiting from rfl, hwait] at hw
    cases hw
  · refine .requested hreq hpar b.intrAccept ?_ b.waiting b.sinceSample
    rw [State.tick_turn, State.euEffects_turn, b.turn]
  · have hww : w.waiting = false := b.waiting
    have hwd : w.responseDue = false := b.responseDue
    have hwe : w.executing = s.executing := b.executing
    refine .ended hreq htest hsam hww b.sinceSample (by simp [hwd]) ?_ (by simp [hww, hwd, hwe]) b.intrAccept
    rw [State.tick_turn, State.euEffects_turn, b.turn, hww, hwd]
    simp
  · have hww : w.waiting = true := b.waiting.trans hwait
    have hwt : w.turn = .bus := b.turn.trans hturn
    refine .goesOn hreq htest hww ?_ b.sinceSample b.intrAccept
    rw [State.tick_turn, State.euEffects_turn, hwt, hww]
    rfl

/-! ### RESET, and EU's moves -/

/-- A T state with RESET high. -/
theorem step_of_reset_next {s t : State} (hturn : s.turn = .bus) (hreset : s.input.env.reset = true)
    (h : step s = .next t) : t = (s.resetStep s.input.env).tick := by
  rcases step_next h with ⟨-, h⟩ | ⟨hne, -⟩
  · rcases tStep_next h with ⟨-, ht⟩ | ⟨hlow, -⟩
    · exact ht
    · rw [hreset] at hlow; cases hlow
  · exact absurd hturn hne

theorem step_of_eu {s : State} (hturn : s.turn ≠ .bus) : step s = euStep s := by
  unfold step
  cases h : s.turn with
  | bus => exact absurd h hturn
  | instrEnd | start => rfl

/-- EU's move leaves alone what `EuFrame` names. -/
theorem step_of_eu_frame {s t : State} (hturn : s.turn ≠ .bus) (h : step s = .next t) : EuFrame s t :=
  euStep_frame (by rwa [step_of_eu hturn] at h)

/-- EU's beginning of an instruction keeps everything but the wait, the nest, the program, its own mark. -/
structure ActFrame (s t : State) : Prop where
  regs : t.regs = s.regs
  nmiPending : t.nmiPending = s.nmiPending
  intrAccept : t.intrAccept = s.intrAccept
  turn : t.turn = s.turn
  pending : t.pending = s.pending
  responseDue : t.responseDue = s.responseDue
  acks : t.acks = s.acks
  events : t.events = s.events
  wait : (t.waiting = s.waiting ∧ t.sinceSample = s.sinceSample) ∨
    (t.waiting = true ∧ t.sinceSample = 0)

theorem State.euAct_actFrame {s t : State} (h : s.euAct = .next t) : ActFrame s t := by
  rcases State.euAct_next h with ⟨-, rfl⟩ | ⟨-, -, rfl⟩ | ⟨-, b, -, -, rfl⟩ | ⟨-, b, -, -, rfl⟩
  · exact ⟨rfl, rfl, rfl, rfl, rfl, rfl, rfl, rfl, .inl ⟨rfl, rfl⟩⟩
  · rcases returnFromInterrupt_cases { s with program := s.program.tail, executing := true } with
      ⟨-, e⟩ | ⟨o, -, e⟩ | ⟨o, -, e⟩ <;> rw [e]
    · exact ⟨rfl, rfl, rfl, rfl, rfl, rfl, rfl, rfl, .inl ⟨rfl, rfl⟩⟩
    · exact ⟨rfl, rfl, rfl, rfl, rfl, rfl, rfl, rfl, .inr ⟨rfl, rfl⟩⟩
    · exact ⟨rfl, rfl, rfl, rfl, rfl, rfl, rfl, rfl, .inl ⟨rfl, rfl⟩⟩
  · exact ⟨rfl, rfl, rfl, rfl, rfl, rfl, rfl, rfl, .inr ⟨rfl, rfl⟩⟩
  · exact ⟨rfl, rfl, rfl, rfl, rfl, rfl, rfl, rfl, .inl ⟨rfl, rfl⟩⟩

end Sys2Proof.Machine
end

section
/-!
PROOFS. The invariant of the machine: each clause by itself, through T states and through EU's moves.
-/

namespace Sys2Proof.Machine

/-! ### Memories and queue -/

/-- The clauses of the invariant on what is stored: canonical memories, and a queue that fits. -/
structure State.Stored (s : State) : Prop where
  memory : Memory.wf s.mem = true
  ports : Memory.wf s.io = true
  queue : s.queue.length ≤ s.params.queueLen

theorem State.BusFree.stored {s u : State} (h : s.BusFree u) (hs : s.Stored) : u.Stored := by
  rcases h with ⟨-, rfl⟩ | ⟨r, -, h⟩
  · exact hs
  · rcases State.effect_next h with ⟨i, -, h⟩ | ⟨-, rfl⟩
    · obtain ⟨hm, hi, hq⟩ := exec_wf h hs.memory hs.ports hs.queue
      exact ⟨hm, hi, hq⟩
    · exact hs

theorem State.startOrIdle_stored {s t : State} {e : EuIn} (h : s.startOrIdle e = .next t)
    (hs : s.Stored) : t.Stored := by
  rcases State.startOrIdle_next h with ⟨-, rfl⟩ | ⟨r, -, -, rfl⟩ <;>
    exact ⟨hs.memory, hs.ports, hs.queue⟩

theorem State.busStep_stored {s t : State} {i : TInput} (h : s.busStep i = .next t)
    (hs : s.Stored) : t.Stored := by
  rcases State.busStep_cases h with ⟨u, hu, ht⟩ | ⟨ph, r, -, -, rfl⟩
  · exact State.startOrIdle_stored ht (hu.stored hs)
  · exact ⟨hs.memory, hs.ports, hs.queue⟩

/-- What EU takes from the queue leaves it no longer. -/
theorem State.euEffects_stored {s : State} (hs : s.Stored) (w : Bool) (e : EuIn) :
    ((s.euEffects w e).tick).Stored := by
  refine ⟨by simpa using hs.memory, by simpa using hs.ports, ?_⟩
  have hlen : (s.queue.drop e.consume).length ≤ s.queue.length := by simp
  cases w
  · simpa using hlen.trans hs.queue
  · simpa using hs.queue

theorem step_keeps_stored {s t : State} (hs : s.Stored) (h : step s = .next t) : t.Stored := by
  by_cases hturn : s.turn = .bus
  · cases hreset : s.input.env.reset with
    | true =>
      rw [step_of_reset_next hturn hreset h]
      obtain ⟨hm, hi⟩ := State.abandonCycle_wf hs.memory hs.ports
      refine ⟨?_, ?_, by simp⟩ <;> cases hr : s.inReset <;> simp [hr, hm, hi, hs.memory, hs.ports]
    | false =>
      obtain ⟨s1, v, w, -, hv, -, hw, -, rfl⟩ := tState_next hturn hreset h
      have hvs : v.Stored := by
        refine ⟨?_, ?_, ?_⟩
        · rw [hv.mem]; exact hs.memory
        · rw [hv.io]; exact hs.ports
        · rw [hv.queue, hv.params]; exact hs.queue
      exact State.euEffects_stored (State.busStep_stored hw hvs) s.waiting s.input.eu
  · have f := step_of_eu_frame hturn h
    refine ⟨?_, ?_, ?_⟩
    · rw [f.mem]; exact hs.memory
    · rw [f.io]; exact hs.ports
    · rw [f.queue, f.params]; exact hs.queue

/-! ### The bus cycle and the latch -/

/-- The clauses on the bus: a legal cycle, and the latch. -/
structure State.BusHolds (s : State) : Prop where
  cycle : s.cycleLegal = true
  latch : s.latchHolds = true

/-- The clauses on the bus read the parameters, the bus and the latch alone. -/
theorem State.BusHolds.congr {s t : State} (hs : s.BusHolds) (hp : t.params = s.params)
    (hb : t.bus = s.bus) (hl : t.latch = s.latch) : t.BusHolds := by
  have hreach : ∀ op a, t.reachable op a = s.reachable op a := fun op a => by
    simp only [State.reachable, hp]
  refine ⟨?_, ?_⟩
  · simp only [State.cycleLegal, hb, hp, hreach]
    exact hs.cycle
  · simp only [State.latchHolds, hb, hl]
    exact hs.latch

theorem State.busHolds_of_idle {s : State} (h : s.bus = .idle) : s.BusHolds := by
  constructor
  · rw [State.cycleLegal, h]
  · rw [State.latchHolds, h]

/-- A request to which nothing was objected makes a legal cycle. -/
theorem State.startOrIdle_busHolds {s t : State} {e : EuIn} (h : s.startOrIdle e = .next t) :
    t.BusHolds := by
  rcases State.startOrIdle_next h with ⟨-, rfl⟩ | ⟨r, -, hobj, rfl⟩
  · exact State.busHolds_of_idle rfl
  · obtain ⟨hcode, -, -, hkind, htop, hport⟩ := State.objection_none hobj
    have hsel : Request.selects r = true := by
      rcases hcode with h | h <;> simp only [Request.selects, h] <;> simp
    refine ⟨?_, rfl⟩
    simp only [State.cycleLegal, hsel, hkind, htop]
    exact hport

theorem State.busStep_busHolds {s t : State} {i : TInput} (h : s.busStep i = .next t)
    (hs : s.BusHolds) : t.BusHolds := by
  rcases State.busStep_cases h with ⟨u, -, ht⟩ | ⟨ph, r, hbus, hph, rfl⟩
  · exact State.startOrIdle_busHolds ht
  · obtain ⟨hcycle, hlatch⟩ := hs
    constructor
    · rw [State.cycleLegal, hbus] at hcycle
      exact hcycle
    · rw [State.latchHolds, hbus] at hlatch
      cases ph with
      | t4 => exact absurd rfl hph
      | t1 => simp [State.latchHolds, Phase.after]
      | t2 => simpa [State.latchHolds, Phase.after] using hlatch
      | t3 | tw => cases hready : i.env.ready <;> simpa [State.latchHolds, Phase.after, hready] using hlatch

theorem step_keeps_busHolds {s t : State} (hs : s.BusHolds) (h : step s = .next t) : t.BusHolds := by
  by_cases hturn : s.turn = .bus
  · cases hreset : s.input.env.reset with
    | true =>
      rw [step_of_reset_next hturn hreset h]
      exact State.busHolds_of_idle (by simp)
    | false =>
      obtain ⟨s1, v, w, -, hv, -, hw, -, rfl⟩ := tState_next hturn hreset h
      have hws := State.busStep_busHolds hw (hs.congr hv.params hv.bus hv.latch)
      exact hws.congr (by simp) (by simp) (by simp)
  · have f := step_of_eu_frame hturn h
    exact hs.congr f.params f.bus f.latch

/-! ### RESET -/

theorem step_keeps_resetHolds {s t : State} (hs : s.resetHolds = true) (h : step s = .next t) :
    t.resetHolds = true := by
  by_cases hturn : s.turn = .bus
  · cases hreset : s.input.env.reset with
    | true =>
      rw [step_of_reset_next hturn hreset h]
      simp [State.resetHolds]
    | false => simp [State.resetHolds, (tState_frame hturn hreset h).inReset]
  · have hin : s.inReset = false := by
      by_contra hin
      simp only [Bool.not_eq_false] at hin
      simp [State.resetHolds, hin, hturn] at hs
    simp [State.resetHolds, (step_of_eu_frame hturn h).inReset, hin]

/-! ### The wait -/

/-- What an EU move does to the wait, if the wait is on after it: nothing, or a new one begins. -/
theorem euMove_waiting {s t : State} (hturn : s.turn ≠ .bus) (h : step s = .next t)
    (hwait : t.waiting = true) :
    (s.waiting = true ∧ t.sinceSample = s.sinceSample) ∨ t.sinceSample = 0 := by
  rw [step_of_eu hturn] at h
  rcases euStep_next h with ⟨hb, -⟩ | ⟨k, -, -, -, h⟩ | ⟨k, -, -, -, rfl⟩ | ⟨-, h⟩
  · exact absurd hb hturn
  · obtain ⟨e, resp, -, -, rfl⟩ := takeInterrupt_next h
    cases hwait
  · exact .inl ⟨hwait, rfl⟩
  · rcases (State.euAct_actFrame h).wait with ⟨hw, hs⟩ | ⟨-, hs⟩
    · exact .inl ⟨hw ▸ hwait, hs⟩
    · exact .inr hs

/-- EU's move gives the turn to the bus interface. -/
theorem euMove_turn {s t : State} (hturn : s.turn ≠ .bus) (h : step s = .next t) : t.turn = .bus := by
  rw [step_of_eu hturn] at h
  rcases euStep_next h with ⟨hb, -⟩ | ⟨k, -, -, -, h⟩ | ⟨k, -, -, -, rfl⟩ | ⟨-, h⟩
  · exact absurd hb hturn
  · obtain ⟨e, resp, -, -, rfl⟩ := takeInterrupt_next h
    cases k <;> rfl
  · rfl
  · exact (State.euAct_actFrame h).turn

theorem State.pollBound_iff (s : State) :
    s.pollBound = true ↔ (s.waiting = true → s.sinceSample < max 1 s.params.testPollMax) := by
  cases h : s.waiting <;> simp [State.pollBound, h]

/-- A T state that does not examine TEST is one of fewer than `TEST_POLL_MAX` in a row (R172). -/
theorem State.sinceSample_bound (s : State) :
    (if s.testSampled then 0 else s.sinceSample + 1) < max 1 s.params.testPollMax := by
  cases h : s.testSampled with
  | true => simp
  | false =>
    simp only [State.testSampled, Bool.or_eq_false_iff, decide_eq_false_iff_not] at h
    obtain ⟨hlt, -⟩ := h
    simp only [Bool.false_eq_true, if_false]
    omega

theorem step_keeps_pollBound {s t : State} (hs : s.pollBound = true) (h : step s = .next t) :
    t.pollBound = true := by
  rw [State.pollBound_iff] at hs ⊢
  intro hwait
  by_cases hturn : s.turn = .bus
  · cases hreset : s.input.env.reset with
    | true =>
      rw [step_of_reset_next hturn hreset h] at hwait
      simp at hwait
    | false =>
      rw [(tState_frame hturn hreset h).params]
      cases hw : s.waiting with
      | false =>
        rw [(tState_of_not_waiting hturn hreset hw h).waiting] at hwait
        cases hwait
      | true =>
        cases tState_of_waiting hturn hreset hw h with
        | requested _ _ _ _ _ hsince => rw [hsince]; exact s.sinceSample_bound
        | ended _ _ _ hend => rw [hend] at hwait; cases hwait
        | goesOn _ _ _ _ hsince => rw [hsince]; exact s.sinceSample_bound
  · rw [(step_of_eu_frame hturn h).params]
    rcases euMove_waiting hturn h hwait with ⟨hw, hsince⟩ | hsince
    · rw [hsince]; exact hs hw
    · omega

/-- In a wait only an interrupt request, `wait_interruptible` being set, brings EU to a boundary. -/
theorem step_keeps_waitHolds {s t : State} (h : step s = .next t) :
    t.waitHolds = true := by
  have hgoal : t.waiting = true → t.turn = .bus ∨ t.params.waitInterruptible = true := by
    intro hwait
    by_cases hturn : s.turn = .bus
    · cases hreset : s.input.env.reset with
      | true =>
        rw [step_of_reset_next hturn hreset h]
        exact .inl (by simp)
      | false =>
        cases hw : s.waiting with
        | false =>
          rw [(tState_of_not_waiting hturn hreset hw h).waiting] at hwait
          cases hwait
        | true =>
          cases tState_of_waiting hturn hreset hw h with
          | requested _ hpar => rw [(tState_frame hturn hreset h).params]; exact .inr hpar
          | ended _ _ _ hend => rw [hend] at hwait; cases hwait
          | goesOn _ _ _ hplace => exact .inl hplace
    · exact .inl (euMove_turn hturn h)
  cases hwait : t.waiting with
  | false => simp [State.waitHolds, hwait]
  | true => rcases hgoal hwait with h | h <;> simp [State.waitHolds, h]

/-! ### The beginning of an instruction -/

/-- An input that begins an instruction is void while one is in execution (R181). -/
theorem State.executing_of_place_start {due done executing : Bool} {e : EuIn}
    (h : State.place due done executing e = .start) : executing = false := by
  cases executing with
  | false => rfl
  | true =>
    simp only [State.place, Bool.not_true, Bool.and_false, Bool.false_eq_true, if_false] at h
    split at h <;> split at h <;> cases h

/-- A T state that brings EU to the beginning of an instruction with NMI pending is none of a wait, and no
instruction was in execution (R181). -/
theorem tState_start_with_nmi {s t : State} (hturn : s.turn = .bus)
    (hreset : s.input.env.reset = false) (h : step s = .next t) (hstart : t.turn = .start)
    (hnmi : t.nmiPending = true) : s.executing = false ∧ s.waiting = false := by
  rw [(tState_frame hturn hreset h).nmiPending] at hnmi
  cases hw : s.waiting with
  | false =>
    refine ⟨?_, rfl⟩
    rw [(tState_of_not_waiting hturn hreset hw h).turn] at hstart
    exact State.executing_of_place_start hstart
  | true =>
    cases tState_of_waiting hturn hreset hw h with
    | requested _ _ _ hplace => rw [hplace] at hstart; cases hstart
    | ended hreq => simp [State.requested, hnmi] at hreq
    | goesOn _ _ _ hplace => rw [hplace] at hstart; cases hstart

theorem step_keeps_startHolds {s t : State} (h : step s = .next t) : t.startHolds = true := by
  by_contra hnot
  obtain ⟨⟨hstart, hnmi⟩, hexec⟩ :
      (t.turn = .start ∧ t.nmiPending = true) ∧ t.executing = true := by
    simpa [State.startHolds] using hnot
  by_cases hturn : s.turn = .bus
  · cases hreset : s.input.env.reset with
    | true =>
      rw [step_of_reset_next hturn hreset h] at hstart
      simp at hstart
    | false =>
      obtain ⟨hidle, hw⟩ := tState_start_with_nmi hturn hreset h hstart hnmi
      rw [(tState_of_not_waiting hturn hreset hw h).executing, hidle] at hexec
      cases hexec
  · rw [euMove_turn hturn h] at hstart
    cases hstart

/-! ### The obligations -/

/-- Settles O50: each clause of the invariant is kept by itself, those on what is stored together, and those
on the bus together. -/
theorem everyStepKeepsTheInvariant : Obligations.EveryStepKeepsTheInvariant := by
  intro s t hs h
  have hstored := step_keeps_stored ⟨hs.memory, hs.ports, hs.queue⟩ h
  have hbus := step_keeps_busHolds ⟨hs.cycle, hs.latch⟩ h
  exact ⟨hstored.memory, hstored.ports, hstored.queue, hbus.cycle, hbus.latch,
    step_keeps_resetHolds hs.reset h, step_keeps_pollBound hs.poll h, step_keeps_waitHolds h,
    step_keeps_startHolds h⟩

/-- Settles O51: the reset state is closed data, and every clause is evaluated on it. -/
theorem resetHasTheInvariantAndStatedValues : Obligations.ResetHasTheInvariantAndStatedValues := by
  refine ⟨⟨?memory, ?ports, ?queue, ?cycle, ?latch, ?reset, ?poll, ?wait, ?start⟩, ?values⟩
  all_goals decide

end Sys2Proof.Machine
end

section
/-!
PROOFS. The T states of a bus cycle: their order, what moves before T4, the latch, and what a bus step and
EU's move each consume.
-/

namespace Sys2Proof.Machine

/-! ### The bus in a T state -/

/-- What a T state with RESET low does to the bus, the latch and the data of the machine. -/
inductive BusTState (s t : State) : Prop
  /-- Before its T4 the cycle goes on, and no data move (R93, R100). -/
  | goesOn (ph : Phase) (r : Request) (hbus : s.bus = .cycle ph r) (hph : ph ≠ .t4)
      (bus : t.bus = .cycle (ph.after s.input.env.ready) r)
      (latch : t.latch = if ph = .t1 then { addr := r.addr, bhe := r.bhe } else s.latch)
  /-- In TI and T4 the next cycle starts, or the bus idles (R102). -/
  | free (hbus : s.bus = .idle ∨ ∃ r, s.bus = .cycle .t4 r)
      (bus : t.bus = .idle ∨ ∃ r, t.bus = .cycle .t1 r) (latch : t.latch = s.latch)

theorem tState_bus {s t : State} (hturn : s.turn = .bus) (hreset : s.input.env.reset = false)
    (h : step s = .next t) : BusTState s t := by
  obtain ⟨s1, v, w, -, hv, -, hw, -, rfl⟩ := tState_next hturn hreset h
  rcases State.busStep_cases hw with ⟨u, hu, ht⟩ | ⟨ph, r, hbus, hph, rfl⟩
  · have hfree : s.bus = .idle ∨ ∃ r, s.bus = .cycle .t4 r := by
      rw [← hv.bus]
      exact hu.imp And.left fun ⟨r, hb, _⟩ => ⟨r, hb⟩
    have hlatch : u.latch = s.latch := hu.frame.latch.trans hv.latch
    rcases State.startOrIdle_next ht with ⟨-, rfl⟩ | ⟨r, -, -, rfl⟩
    · exact .free hfree (.inl (by simp)) (by simpa using hlatch)
    · exact .free hfree (.inr ⟨r, by simp⟩) (by simpa using hlatch)
  · exact .goesOn ph r (hv.bus ▸ hbus) hph (by simp) (by simp [hv.latch])

/-- The data that a transfer moves: memory, ports, what reads delivered. -/
structure DataKept (s t : State) : Prop where
  mem : t.mem = s.mem
  io : t.io = s.io
  rdata : t.rdata = s.rdata
  halves : t.halves = s.halves
  received : t.received = s.received

/-- A T state other than T4 moves no data, and adds nothing to the queue (R100). -/
theorem tState_data {s t : State} (hturn : s.turn = .bus) (hreset : s.input.env.reset = false)
    (hbus : s.bus.t ≠ .t4) (h : step s = .next t) :
    DataKept s t ∧ t.queue = if s.waiting then s.queue else s.queue.drop s.input.eu.consume := by
  obtain ⟨s1, v, w, -, hv, -, hw, -, rfl⟩ := tState_next hturn hreset h
  have hkept : DataKept v w ∧ w.queue = v.queue := by
    rcases State.busStep_cases hw with ⟨u, ⟨-, rfl⟩ | ⟨r, hb, -⟩, ht⟩ | ⟨ph, r, -, -, rfl⟩
    · rcases State.startOrIdle_next ht with ⟨-, rfl⟩ | ⟨r, -, -, rfl⟩ <;>
        exact ⟨⟨rfl, rfl, rfl, rfl, rfl⟩, rfl⟩
    · rw [hv.bus] at hb
      rw [hb] at hbus
      exact absurd rfl hbus
    · exact ⟨⟨rfl, rfl, rfl, rfl, rfl⟩, rfl⟩
  obtain ⟨k, hqueue⟩ := hkept
  refine ⟨⟨?_, ?_, ?_, ?_, ?_⟩, ?_⟩
  · simpa using k.mem.trans hv.mem
  · simpa using k.io.trans hv.io
  · simpa using k.rdata.trans hv.rdata
  · simpa using k.halves.trans hv.halves
  · simpa using k.received.trans hv.received
  · simp [hqueue, hv.queue]

/-- Settles O23: the order is `Phase.after` within a cycle, and TI or T1 after TI and T4. -/
theorem tStatesFollowInOrder : Obligations.TStatesFollowInOrder := by
  intro s t h
  refine ⟨fun hturn => (step_of_eu_frame hturn h).bus, fun hturn hreset => ?_⟩
  cases tState_bus hturn hreset h with
  | goesOn ph r hbus hph bus =>
    rw [hbus, bus]
    refine ⟨?order, fun ph' r' hcyc _ => ⟨ph.after s.input.env.ready, by cases hcyc; rfl⟩, ?ready⟩
    case order =>
      cases ph with
      | t4 => exact absurd rfl hph
      | t1 | t2 => rfl
      | t3 | tw => cases hready : s.input.env.ready <;> rfl
    case ready =>
      intro ph' r' hcyc hph'
      cases hcyc
      rcases hph' with rfl | rfl <;> cases hready : s.input.env.ready <;> rfl
  | free hbus bus =>
    refine ⟨?order, ?same, ?ready⟩
    case order =>
      rcases hbus with hb | ⟨r, hb⟩ <;> rcases bus with hb' | ⟨r', hb'⟩ <;> rw [hb, hb'] <;> rfl
    case same =>
      intro ph r hcyc hph
      rcases hbus with hb | ⟨r', hb⟩ <;> rw [hb] at hcyc <;> cases hcyc
      exact absurd rfl hph
    case ready =>
      intro ph r hcyc hph
      rcases hbus with hb | ⟨r', hb⟩ <;> rw [hb] at hcyc <;> cases hcyc
      rcases hph with hph | hph <;> cases hph

/-- Settles O25: by `tState_data` for a T state; EU's moves leave the data and the queue alone. -/
theorem nothingMovesBeforeT4 : Obligations.NothingMovesBeforeT4 := by
  intro s t h hbefore
  by_cases hturn : s.turn = .bus
  · obtain ⟨hbus, hreset⟩ := hbefore hturn
    obtain ⟨k, hqueue⟩ := tState_data hturn hreset hbus h
    refine ⟨k.mem, k.io, k.rdata, k.halves, k.received, ?_⟩
    rw [hqueue]
    cases hw : s.waiting <;> simp [hturn]
  · have f := step_of_eu_frame hturn h
    exact ⟨f.mem, f.io, f.rdata, f.halves, f.received, by simpa [hturn] using f.queue⟩

/-- Settles O29: the latch by the T state, by RESET and by EU's moves. -/
theorem latchLoadsInT1Only : Obligations.LatchLoadsInT1Only := by
  intro s t h
  refine ⟨fun r hturn hreset hbus => ?loads, fun hother => ?holds⟩
  case loads =>
    cases tState_bus hturn hreset h with
    | goesOn ph r' hb hph bus latch =>
      rw [hbus] at hb
      cases hb
      rw [latch, if_pos rfl]
    | free hb => rcases hb with hb | ⟨r', hb⟩ <;> rw [hb] at hbus <;> cases hbus
  case holds =>
    by_cases hturn : s.turn = .bus
    · cases hreset : s.input.env.reset with
      | true => rw [step_of_reset_next hturn hreset h]; simp
      | false =>
        cases tState_bus hturn hreset h with
        | goesOn ph r hb hph bus latch =>
          have hne : ph ≠ .t1 := by
            rintro rfl
            rcases hother with h1 | h1 | h1
            · exact h1 hturn
            · rw [hb] at h1; exact h1 rfl
            · rw [hreset] at h1; cases h1
          rw [latch, if_neg hne]
        | free hb bus latch => exact latch
    · exact (step_of_eu_frame hturn h).latch

/-! ### What a step consumes and what it keeps -/

/-- Settles O52: no part of a step writes the parameters. -/
theorem parametersAreConstant : Obligations.ParametersAreConstant := by
  intro s t h
  by_cases hturn : s.turn = .bus
  · cases hreset : s.input.env.reset with
    | true => rw [step_of_reset_next hturn hreset h]; simp
    | false => exact (tState_frame hturn hreset h).params
  · exact (step_of_eu_frame hturn h).params

/-- Settles O53: the clock and the script by the T state, by RESET and by EU's moves; EU's place by
`NotWaiting`. -/
theorem eachBusStepIsOneTState : Obligations.EachBusStepIsOneTState := by
  intro s t h
  refine ⟨fun hturn => ?bus, fun hturn => ?eu⟩
  case bus =>
    cases hreset : s.input.env.reset with
    | true =>
      rw [step_of_reset_next hturn hreset h]
      exact ⟨by simp, by simp, fun hlow => nomatch hlow⟩
    | false =>
      have f := tState_frame hturn hreset h
      refine ⟨f.clock, f.script, fun _ hwait hdue => ?_⟩
      rw [(tState_of_not_waiting hturn hreset hwait h).turn, hdue]
      simp [State.place]
  case eu =>
    have f := step_of_eu_frame hturn h
    exact ⟨f.clock, f.script, euMove_turn hturn h⟩

/-! ### Registers -/

theorem Regs.read_write (g : Regs) (r r' : Reg) (v : Word) :
    (g.write r v).read r' = if r' = r then v else g.read r' := by
  cases r <;> cases r' <;> rfl

theorem Regs.writeAll_append_one (g : Regs) (ws : List (Reg × Word)) (r : Reg) (v : Word) :
    g.writeAll (ws ++ [(r, v)]) = (g.writeAll ws).write r v := by
  simp [Regs.writeAll, List.foldl_append]

/-- EU's move writes registers at a response alone. -/
theorem euMove_regs {s t : State} (hturn : s.turn ≠ .bus) (h : step s = .next t) :
    (t.regs = s.regs ∧ (s.turn = .start ∨ s.chosenInterrupt = none ∨ s.cyclesDone = false)) ∨
    ∃ k e resp, s.turn = .instrEnd ∧ s.chosenInterrupt = some k ∧ s.cyclesDone = true ∧
      s.params.intEntry = some e ∧ entryResponse e k { s with turn := .bus } = some resp ∧
      t.regs = s.regs.writeAll resp.writes := by
  rw [step_of_eu hturn] at h
  rcases euStep_next h with ⟨hb, -⟩ | ⟨k, hend, hk, hdone, h⟩ | ⟨k, -, -, hdone, rfl⟩ | ⟨hplace, h⟩
  · exact absurd hb hturn
  · obtain ⟨e, resp, he, hresp, rfl⟩ := takeInterrupt_next h
    exact .inr ⟨k, e, resp, hend, hk, hdone, he, hresp, rfl⟩
  · exact .inl ⟨rfl, .inr (.inr hdone)⟩
  · exact .inl ⟨(State.euAct_actFrame h).regs, hplace.imp_right fun hp => .inl hp.2⟩

/-- Settles O54: the registers after a T state by RESET and `tState_frame`, after EU's move by
`euMove_regs`. -/
theorem registersHaveThreeWriters : Obligations.RegistersHaveThreeWriters := by
  refine ⟨fun g ws r r' v => ⟨rfl, ?_⟩, fun s t h => ⟨fun hturn => ?bus, fun hno hturn => ?none,
    fun k hend hk hdone => ?response⟩⟩
  · rw [Regs.writeAll_append_one, Regs.read_write]
  case bus =>
    cases hreset : s.input.env.reset with
    | true => rw [step_of_reset_next hturn hreset h]; simp
    | false => simpa using (tState_frame hturn hreset h).regs
  case none =>
    rcases euMove_regs hturn h with ⟨hregs, -⟩ | ⟨k, e, resp, hend, hk, hdone, -⟩
    · exact hregs
    · rw [hend, hk, hdone] at hno
      simp at hno
  case response =>
    have hturn : s.turn ≠ .bus := by rw [hend]; decide
    rcases euMove_regs hturn h with ⟨-, hno⟩ | ⟨k', e, resp, -, hk', -, he, hresp, hregs⟩
    · rw [hend, hk, hdone] at hno
      simp at hno
    · rw [hk] at hk'
      cases hk'
      exact ⟨e, resp, he, hresp, hregs⟩

/-! ### Levels that are not read -/

/-- Where one T state gives the same for two inputs, replacing the first in the script by the second gives
the same step. -/
theorem step_of_replaced_input {s : State} {i : TInput} (hturn : s.turn = .bus)
    (h : s.tStepOn i = s.tStepOn s.input) :
    step { s with script := i :: s.script.tail } = step s := by
  have hturn' : ({ s with script := i :: s.script.tail } : State).turn = .bus := hturn
  rw [step_of_bus hturn', step_of_bus hturn, ← h]
  exact State.tStepOn_head s i i

theorem Out.andThen_congr {o : Out} {f g : State → Out} (h : ∀ t, o = .next t → f t = g t) :
    o.andThen f = o.andThen g := by
  cases o with
  | next t => exact h t rfl
  | fault r | refused r => rfl

/-- In T1, T2, T4 and TI the bus interface does the same for both levels of READY (R99). -/
theorem State.busStep_ready {s : State} (h3 : s.bus.t ≠ .t3) (hw : s.bus.t ≠ .tw) (i : TInput)
    (b : Bool) : s.busStep { i with env := { i.env with ready := b } } = s.busStep i := by
  unfold State.busStep
  split
  case h_4 hb => rw [hb] at h3; exact absurd rfl h3
  case h_5 hb => rw [hb] at hw; exact absurd rfl hw
  all_goals rfl

/-- Settles O26: READY enters the T state through the bus interface alone, which reads it in T3 and TW. -/
theorem readyIsReadInT3AndTwOnly : Obligations.ReadyIsReadInT3AndTwOnly := by
  intro s b hturn h3 hw
  refine step_of_replaced_input hturn ?_
  unfold State.tStepOn
  split
  · rfl
  · split
    · rfl
    · refine Out.andThen_congr fun s1 h1 => Out.andThen_congr fun v h2 => ?_
      have hbus : v.bus = s.bus := (beforeBus_of_parts h1 h2).bus
      rw [State.busStep_ready (by rwa [hbus]) (by rwa [hbus])]

/-- Settles O27: TEST enters the T state through the wait alone. -/
theorem testIsIgnoredOutsideTheWait : Obligations.TestIsIgnoredOutsideTheWait := by
  intro s b hturn hwait
  refine step_of_replaced_input hturn ?_
  simp only [State.tStepOn, State.waitStep_of_sampled hwait]
  rfl

/-- Settles O28: INTR enters the T state through the test in an instruction's last clock and through the
wait alone. -/
theorem intrIsReadInTheLastClockOnly : Obligations.IntrIsReadInTheLastClockOnly := by
  intro s b hturn hwait hlast
  refine step_of_replaced_input hturn ?_
  have hsample : ∀ t : State,
      t.sampleInterrupts { s.input with env := { s.input.env with intr := b } } =
        t.sampleInterrupts s.input := fun t => by simp [State.sampleInterrupts, hlast]
  simp only [State.tStepOn, State.waitStep_of_sampled hwait, hsample]
  rfl

end Sys2Proof.Machine
end

section
/-!
PROOFS. A step as an equation: the parts of a T state around what the bus interface does, and EU's beginning
of an instruction.
-/

namespace Sys2Proof.Machine

/-! ### A T state with RESET low -/

/-- The parts of a T state with RESET low, around `part4`, the bus interface's share (R101). -/
def State.around (s : State) (part4 : State → Out) : Out :=
  Out.andThen ((s.leaveReset.sampleInterrupts s.input).waitStep s.input) fun s1 =>
  Out.andThen (s1.beginAccess s.input.eu) fun s2 =>
  Out.andThen (part4 s2) fun s3 => .next (s3.euEffects s.waiting s.input.eu).tick

/-- A T state with the strap at the mode's level and RESET low refuses for neither: its parts run, the bus
being as in `s` when the bus interface takes its share. -/
theorem step_eq_around {s : State} (hturn : s.turn = .bus)
    (hstrap : s.input.env.mnmx = modeLevel s.params.mode) (hreset : s.input.env.reset = false)
    {part4 : State → Out} (h : ∀ v, v.bus = s.bus → v.busStep s.input = part4 v) :
    step s = s.around part4 := by
  rw [step_of_bus hturn, State.tStepOn, if_neg (by simp [hstrap]), if_neg (by simp [hreset])]
  refine Out.andThen_congr fun s1 h1 => Out.andThen_congr fun v h2 => ?_
  rw [h v (beforeBus_of_parts h1 h2).bus]

theorem State.beginAccess_none {s : State} {e : EuIn} (h : e.access = none) :
    s.beginAccess e = .next s := by
  simp [State.beginAccess, h]

/-- With no wait and no access beginning, the bus interface finds the state with the T state's inputs
seen. -/
theorem State.around_of_quiet {s : State} (hwait : s.waiting = false)
    (haccess : s.input.eu.access = none) (part4 : State → Out) :
    s.around part4 = Out.andThen (part4 (s.leaveReset.sampleInterrupts s.input)) fun s3 =>
      .next (s3.euEffects false s.input.eu).tick := by
  rw [State.around, State.waitStep_of_sampled hwait]
  simp only [Out.andThen]
  rw [State.beginAccess_none haccess]
  simp only [hwait]

/-- In T4 the bus interface runs the instruction the cycle's T1 word decodes to (R100). -/
theorem State.busStep_of_decode {v : State} {r : Request} {i : Instr} (hbus : v.bus = .cycle .t4 r)
    (hi : decode ⟨r.op, r.half⟩ (.t1 (t1Word r.bhe r.addr)) = .ok i) (inp : TInput) :
    v.busStep inp = Out.andThen (exec i v) fun s' => s'.startOrIdle inp.eu := by
  have hinstr : r.instr = some i := by
    rw [Request.instr, show decodeT1 ⟨r.op, r.half⟩ (t1Word r.bhe r.addr) = .ok i from hi]
    rfl
  rw [State.busStep_of_t4 hbus, State.effect, hinstr]

/-! ### TI -/

theorem State.startOrIdle_of_none {s : State} {e : EuIn} (h : s.offered e = none) :
    s.startOrIdle e = .next { s with bus := .idle } := by
  rw [State.startOrIdle, h]

theorem State.startOrIdle_of_objection {s : State} {e : EuIn} {r : Request} {x : Refusal}
    (h : s.offered e = some r) (hx : s.objection r = some x) : s.startOrIdle e = .refused x := by
  rw [State.startOrIdle, h]
  simp only [hx]

theorem State.startOrIdle_of_admitted {s : State} {e : EuIn} {r : Request}
    (h : s.offered e = some r) (hx : s.objection r = none) :
    s.startOrIdle e = .next { s with
      bus := .cycle .t1 r, pending := s.pendingAfter e, firstFetchDue := false } := by
  rw [State.startOrIdle, h]
  simp only [hx]

/-- Settles O30: every clause is the parts of a T state around what the bus interface does in T4, in TI, or
in the T states between. -/
theorem stepRunsTheCyclesInstruction : Obligations.StepRunsTheCyclesInstruction := by
  refine ⟨fun s r i hturn hstrap hreset hbus hi => ?t4, fun s hturn hstrap hreset => ⟨?ti, ?between⟩,
    fun s i hwait => State.waitStep_of_not_waiting hwait i, fun s w e => by cases w <;> rfl⟩
  case t4 =>
    have hstep := step_eq_around hturn hstrap hreset fun v hv =>
      State.busStep_of_decode (hv.trans hbus) hi s.input
    rw [hstep]
    constructor
    · intro hwait haccess
      rw [State.around_of_quiet hwait haccess, Out.andThen_assoc]
    · simp only [State.around, Out.andThen_assoc]
  case ti =>
    intro hbus
    have hstep := step_eq_around hturn hstrap hreset fun v hv =>
      State.busStep_of_idle (hv.trans hbus) s.input
    refine ⟨hstep, fun hwait haccess => ⟨fun hnone => ?_, fun r hsome hobj => ?_⟩⟩ <;>
      rw [hstep, State.around_of_quiet hwait haccess]
    · have hnone' : (s.leaveReset.sampleInterrupts s.input).offered s.input.eu = none := hnone
      rw [State.startOrIdle_of_none hnone']
      exact ⟨_, rfl, rfl, rfl⟩
    · have hsome' : (s.leaveReset.sampleInterrupts s.input).offered s.input.eu = some r := hsome
      have hobj' : (s.leaveReset.sampleInterrupts s.input).objection r = none := hobj
      rw [State.startOrIdle_of_admitted hsome' hobj']
      exact ⟨_, rfl, rfl, rfl, rfl⟩
  case between =>
    intro ph r hbus hph
    refine step_eq_around hturn hstrap hreset fun v hv => ?_
    rw [State.busStep_of_cycle (hv.trans hbus) hph]
    cases ph <;> rfl

/-! ### EU's beginning of an instruction -/

/-- EU begins an instruction where it stands at the beginning of one, or at the end of one with no request
to answer. -/
theorem step_eq_euAct {s : State}
    (h : s.turn = .start ∨ (s.turn = .instrEnd ∧ s.chosenInterrupt = none)) :
    step s = { s with turn := .bus }.euAct := by
  rcases h with hstart | ⟨hend, hnone⟩
  · rw [step_of_eu (by rw [hstart]; decide), euStep]
    simp only [hstart]
  · rw [step_of_eu (by rw [hend]; decide), euStep]
    simp only [hend, hnone]

theorem State.euAct_of_decoded {s : State} {b : Byte} {i : Instr} (hwait : s.waiting = false)
    (ha : s.action = .instr b) (hb : decodeByte b = .ok i) :
    s.euAct = exec i { s with program := s.program.tail, executing := true } := by
  rw [State.euAct, if_neg (by simp [hwait])]
  simp only [ha, hb]

theorem State.euAct_of_undecoded {s : State} {b : Byte} {x : DecodeError} (hwait : s.waiting = false)
    (ha : s.action = .instr b) (hb : decodeByte b = .error x) :
    s.euAct = .next { s with program := s.program.tail, executing := true } := by
  rw [State.euAct, if_neg (by simp [hwait])]
  simp only [ha, hb]

theorem State.euAct_ret {s : State} (hwait : s.waiting = false) (ha : s.action = .ret) :
    s.euAct = .next (returnFromInterrupt { s with program := s.program.tail, executing := true }) := by
  rw [State.euAct, if_neg (by simp [hwait])]
  simp only [ha]

/-- Settles O31: what the byte decodes to is run, and a byte that decodes to nothing is passed over. -/
theorem stepRunsEusInstruction : Obligations.StepRunsEusInstruction := by
  intro s b hwait ha hplace
  rw [step_eq_euAct hplace]
  refine ⟨fun i hi => State.euAct_of_decoded hwait ha hi, fun hno => ?_⟩
  cases hb : decodeByte b with
  | ok i => exact absurd hb (hno ⟨.fetch, none⟩ i)
  | error x => exact State.euAct_of_undecoded hwait ha hb

end Sys2Proof.Machine
end

section
/-!
PROOFS. Progress: how long a bus cycle lasts, that a fair READY ends each, and that TEST low, or a fair TEST,
ends a wait.
-/

namespace Sys2Proof.Machine

/-! ### Runs -/

theorem core_run_succ (n : Nat) (s : State) :
    Sys2Proof.core.run (n + 1) s = Out.andThen (step s) fun t => Sys2Proof.core.run n t := by
  simp only [Host.Core.run, show Sys2Proof.core.step s = step s from rfl]
  cases step s <;> rfl

theorem core_run_one {s t : State} (h : step s = .next t) : Sys2Proof.core.run 1 s = .next t := by
  rw [core_run_succ, h]; rfl

/-- A run goes on from where a part of it ends. -/
theorem core_run_add {m : Nat} {s t : State} (n : Nat) (h : Sys2Proof.core.run m s = .next t) :
    Sys2Proof.core.run (m + n) s = Sys2Proof.core.run n t := by
  induction m generalizing s with
  | zero =>
    obtain rfl : s = t := by injection h
    rw [Nat.zero_add]
  | succ m ih =>
    rw [core_run_succ] at h
    obtain ⟨u, hu, hrun⟩ := Out.andThen_next.mp h
    rw [Nat.succ_add, core_run_succ, hu]
    exact ih hrun

theorem InRun.of_le {len : Option Nat} {m n : Nat} (h : InRun len n) (hmn : m ≤ n) : InRun len m :=
  fun l hl => hmn.trans (h l hl)

theorem State.input_of_script {s : State} {i : TInput} {l : List TInput} (h : s.script = i :: l) :
    s.input = i := by
  rw [State.input, h]

/-! ### A bus cycle under calm inputs -/

/-- The bus is in T state `ph` of the cycle of `r`, with no wait and no response due. -/
structure State.InCycle (s : State) (ph : Phase) (r : Request) : Prop where
  turn : s.turn = .bus
  waiting : s.waiting = false
  responseDue : s.responseDue = false
  bus : s.bus = .cycle ph r

/-- `n` T states later, no data having moved. -/
structure Later (n : Nat) (s t : State) : Prop where
  params : t.params = s.params
  clock : t.clock = s.clock + n
  data : DataKept s t

theorem Later.refl (s : State) : Later 0 s s := ⟨rfl, rfl, ⟨rfl, rfl, rfl, rfl, rfl⟩⟩

theorem DataKept.trans {s t u : State} (h : DataKept s t) (h' : DataKept t u) : DataKept s u :=
  ⟨h'.mem.trans h.mem, h'.io.trans h.io, h'.rdata.trans h.rdata, h'.halves.trans h.halves,
    h'.received.trans h.received⟩

theorem Later.trans {m n : Nat} {s t u : State} (h : Later m s t) (h' : Later n t u) :
    Later (m + n) s u :=
  ⟨h'.params.trans h.params, by rw [h'.clock, h.clock, Nat.add_assoc], h.data.trans h'.data⟩

theorem calm_iff {p : Params} {i : TInput} : calm p i = true ↔
    i.env.mnmx = modeLevel p.mode ∧ i.env.reset = false ∧ i.eu.instrLastClock = false ∧
      i.eu.start = false ∧ i.eu.access = none := by
  simp [calm, and_assoc]

/-- The T state after T3 or TW, by READY, is T4 or TW. -/
theorem Phase.after_of_examined {ph : Phase} (h : ph = .t3 ∨ ph = .tw) (ready : Bool) :
    ph.after ready = if ready then .t4 else .tw := by
  rcases h with rfl | rfl <;> rfl

theorem Bus.t_ne_t4 {ph : Phase} {r : Request} (h : ph ≠ .t4) : (Bus.cycle ph r).t ≠ .t4 := by
  cases ph with
  | t4 => exact absurd rfl h
  | t1 | t2 | t3 | tw => simp [Bus.t]

/-- Under a calm input a cycle goes on to its next T state, whatever READY, TEST and the requests are. -/
theorem step_of_calm {s : State} {ph : Phase} {r : Request} (hs : s.InCycle ph r) (hph : ph ≠ .t4)
    (hcalm : calm s.params s.input = true) :
    ∃ t, step s = .next t ∧ t.InCycle (ph.after s.input.env.ready) r ∧ Later 1 s t ∧
      t.script = s.script.tail ∧
      t.latch = if ph = .t1 then { addr := r.addr, bhe := r.bhe } else s.latch := by
  obtain ⟨hstrap, hreset, hlast, hstart, haccess⟩ := calm_iff.mp hcalm
  have hstep := step_eq_around hs.turn hstrap hreset fun v hv =>
    State.busStep_of_cycle (hv.trans hs.bus) hph
  rw [State.around_of_quiet hs.waiting haccess] at hstep
  obtain ⟨t, ht⟩ : ∃ t, step s = .next t := ⟨_, hstep⟩
  have hbt : s.bus.t ≠ .t4 := by rw [hs.bus]; exact Bus.t_ne_t4 hph
  have hn := tState_of_not_waiting hs.turn hreset hs.waiting ht
  have hf := tState_frame hs.turn hreset ht
  obtain ⟨hdata, -⟩ := tState_data hs.turn hreset hbt ht
  have hturn : t.turn = .bus := by
    rw [hn.turn, State.place, hs.responseDue, hlast, hstart]; rfl
  have hdue : t.responseDue = false := by rw [hn.responseDue, hs.responseDue]; rfl
  cases tState_bus hs.turn hreset ht with
  | goesOn ph' r' hbus _ bus latch =>
    rw [hs.bus] at hbus
    cases hbus
    exact ⟨t, ht, ⟨hturn, hn.waiting, hdue, bus⟩, ⟨hf.params, hf.clock, hdata⟩, hf.script, latch⟩
  | free hbus =>
    rcases hbus with hb | ⟨r', hb⟩ <;> rw [hs.bus] at hb <;> cases hb
    exact absurd rfl hph

/-- While READY stays low the cycle stays in TW (R99). -/
theorem run_ready_low {s : State} {ph : Phase} {r : Request} {low rest : List TInput}
    (hs : s.InCycle ph r) (hph : ph = .t3 ∨ ph = .tw)
    (hlow : ∀ i ∈ low, calm s.params i = true ∧ i.env.ready = false)
    (hscript : s.script = low ++ rest) :
    ∃ t ph', Sys2Proof.core.run low.length s = .next t ∧ t.InCycle ph' r ∧
      (ph' = .t3 ∨ ph' = .tw) ∧ (ph = .tw → ph' = .tw) ∧ Later low.length s t ∧
      t.script = rest ∧ t.latch = s.latch := by
  induction low generalizing s ph with
  | nil => exact ⟨s, ph, rfl, hs, hph, id, Later.refl s, hscript, rfl⟩
  | cons i low ih =>
    obtain ⟨hcalm, hready⟩ := hlow i (by simp)
    have hinput : s.input = i := State.input_of_script hscript
    have hne : ph ≠ .t4 ∧ ph ≠ .t1 := by rcases hph with rfl | rfl <;> decide
    obtain ⟨u, hu, hcyc, hlater, huscript, hulatch⟩ := step_of_calm hs hne.1 (by rwa [hinput])
    rw [hinput, hready, Phase.after_of_examined hph, if_neg (by decide)] at hcyc
    obtain ⟨t, ph', ht, htcyc, hph', htw, hlater', htscript, htlatch⟩ := ih hcyc (.inr rfl)
      (fun j hj => by rw [hlater.params]; exact hlow j (by simp [hj]))
      (by rw [huscript, hscript]; rfl)
    refine ⟨t, ph', ?_, htcyc, hph', fun _ => htw rfl, ?_, htscript, ?_⟩
    · rw [List.length_cons, core_run_succ, hu]
      exact ht
    · rw [List.length_cons, Nat.add_comm]
      exact hlater.trans hlater'
    · rw [htlatch, hulatch, if_neg hne.2]

/-- From T1 to T4: T2, T3, and one TW for each T state from T3 on in which READY is low (R91, R99). -/
theorem run_cycle {s : State} {r : Request} {i1 i2 i3 : TInput} {low rest : List TInput}
    (hs : s.InCycle .t1 r) (h1 : calm s.params i1 = true) (h2 : calm s.params i2 = true)
    (hlow : ∀ i ∈ low, calm s.params i = true ∧ i.env.ready = false)
    (h3 : calm s.params i3 = true) (hready : i3.env.ready = true)
    (hscript : s.script = i1 :: i2 :: (low ++ i3 :: rest)) :
    ∃ t, Sys2Proof.core.run (3 + low.length) s = .next t ∧ t.InCycle .t4 r ∧
      Later (3 + low.length) s t ∧ t.script = rest ∧ t.latch = { addr := r.addr, bhe := r.bhe } := by
  obtain ⟨s2, hs2, hcyc2, hlater2, hscript2, hlatch2⟩ := step_of_calm hs (by decide)
    (by rwa [State.input_of_script hscript])
  rw [hscript] at hscript2
  obtain ⟨s3, hs3, hcyc3, hlater3, hscript3, hlatch3⟩ := step_of_calm hcyc2 (by simp [Phase.after])
    (by rwa [State.input_of_script hscript2, hlater2.params])
  rw [hscript2] at hscript3
  have hlater23 := hlater2.trans hlater3
  obtain ⟨s4, ph, hs4, hcyc4, hph, -, hlater4, hscript4, hlatch4⟩ :=
    run_ready_low (low := low) hcyc3 (.inl rfl) (by rwa [hlater23.params]) hscript3
  have hlater234 := hlater23.trans hlater4
  have hinput4 : s4.input = i3 := State.input_of_script hscript4
  have hne : ph ≠ .t4 ∧ ph ≠ .t1 := by rcases hph with rfl | rfl <;> decide
  obtain ⟨t, ht, hcyc, hlater, htscript, htlatch⟩ := step_of_calm hcyc4 hne.1
    (by rwa [hinput4, hlater234.params])
  have hcount : 3 + low.length = 1 + 1 + low.length + 1 := by omega
  refine ⟨t, ?_, ?_, ?_, by rw [htscript, hscript4]; rfl, ?_⟩
  · rw [hcount, Nat.add_assoc (1 + 1), Nat.add_assoc 1, core_run_add _ (core_run_one hs2),
      core_run_add _ (core_run_one hs3), core_run_add _ hs4, core_run_one ht]
  · rwa [hinput4, hready, Phase.after_of_examined hph] at hcyc
  · rw [hcount]; exact hlater234.trans hlater
  · rw [htlatch, if_neg hne.2, hlatch4, hlatch3, if_neg (by simp [Phase.after]), hlatch2, if_pos rfl]

/-! ### A fair READY -/

/-- Along a run a cycle that has not come to T4 and that RESET does not cut short is still on the bus. -/
theorem run_in_cycle {len : Option Nat} {ρ : Nat → State} (hrun : IsRun len ρ) {n : Nat} {ph : Phase}
    {r : Request} (hbus : (ρ n).bus = .cycle ph r) (k : Nat) (hk : InRun len (n + k)) :
    (∃ m, n ≤ m ∧ m ≤ n + k ∧ ((ρ m).resetting ∨ (ρ m).bus = .cycle .t4 r)) ∨
    ∃ ph', ph' ≠ .t4 ∧ (ρ (n + k)).bus = .cycle ph' r := by
  induction k with
  | zero =>
    by_cases hph : ph = .t4
    · exact .inl ⟨n, Nat.le_refl n, Nat.le_refl n, .inr (hph ▸ hbus)⟩
    · exact .inr ⟨ph, hph, hbus⟩
  | succ k ih =>
    rcases ih (hk.of_le (by omega)) with ⟨m, hm, hmk, hgoal⟩ | ⟨ph', hph', hbus'⟩
    · exact .inl ⟨m, hm, by omega, hgoal⟩
    · by_cases hreset : (ρ (n + k)).resetting
      · exact .inl ⟨n + k, by omega, by omega, .inl hreset⟩
      · obtain ⟨heu, hbus⟩ := tStatesFollowInOrder _ _ (hrun (n + k) hk)
        have hnext : ∃ ph2, (ρ (n + k + 1)).bus = .cycle ph2 r := by
          by_cases hturn : (ρ (n + k)).turn = .bus
          · have hlow : (ρ (n + k)).input.env.reset = false := by
              simpa [State.resetting, hturn] using hreset
            exact (hbus hturn hlow).2.1 ph' r hbus' hph'
          · exact ⟨ph', (heu hturn).trans hbus'⟩
        obtain ⟨ph2, hbus2⟩ := hnext
        by_cases hph2 : ph2 = .t4
        · exact .inl ⟨n + k + 1, by omega, by omega, .inr (hph2 ▸ hbus2)⟩
        · exact .inr ⟨ph2, hph2, hbus2⟩

/-- A T state of a cycle that finds READY high brings it to T4 (R99). -/
theorem step_of_findsReady {s t : State} {ph : Phase} {r : Request} (hbus : s.bus = .cycle ph r)
    (hready : s.findsReady) (hreset : ¬ s.resetting) (h : step s = .next t) :
    t.bus = .cycle .t4 r := by
  obtain ⟨hturn, hexam, hhigh⟩ := hready
  have hlow : s.input.env.reset = false := by simpa [State.resetting, hturn] using hreset
  have hph : ph = .t3 ∨ ph = .tw := by
    rw [hbus] at hexam
    cases ph <;> simp [Bus.t] at hexam ⊢
  cases tState_bus hturn hlow h with
  | goesOn ph' r' hb _ bus =>
    rw [hbus] at hb
    cases hb
    rw [bus, hhigh, Phase.after_of_examined hph, if_pos rfl]
  | free hb =>
    rcases hb with hb | ⟨r', hb⟩ <;> rw [hbus] at hb <;> cases hb
    rcases hph with hph | hph <;> cases hph

theorem readyFair_ends_cycle {len : Option Nat} {ρ : Nat → State} (hrun : IsRun len ρ)
    (hfair : ReadyFair len ρ) {n : Nat} {ph : Phase} {r : Request} (hn : InRun len n)
    (hbus : (ρ n).bus = .cycle ph r) :
    ∃ m, n ≤ m ∧ InRun len m ∧ ((ρ m).resetting ∨ (ρ m).bus = .cycle .t4 r) := by
  by_cases hph : ph = .t4
  · exact ⟨n, Nat.le_refl n, hn, .inr (hph ▸ hbus)⟩
  · obtain ⟨m, hnm, hm, hfound⟩ := hfair n ph r hn hbus hph
    obtain ⟨k, rfl⟩ := Nat.exists_eq_add_of_le hnm
    have hk : InRun len (n + k) := hm.of_le (by omega)
    rcases run_in_cycle hrun hbus k hk with ⟨m, hnm', hmk, hgoal⟩ | ⟨ph', -, hbus'⟩
    · exact ⟨m, hnm', hk.of_le hmk, hgoal⟩
    · by_cases hreset : (ρ (n + k)).resetting
      · exact ⟨n + k, by omega, hk, .inl hreset⟩
      · have hready := hfound.resolve_left hreset
        exact ⟨n + k + 1, by omega, hm, .inr (step_of_findsReady hbus' hready hreset (hrun _ hm))⟩

/-- Settles O24: `run_cycle` counts the T states, `run_ready_low` keeps the cycle in TW, and along a fair run
`run_in_cycle` leads to a T state that finds READY high. -/
theorem busCycleLastsFourPlusWaits : Obligations.BusCycleLastsFourPlusWaits := by
  refine ⟨fun s r i1 i2 i3 low rest hturn hwait hdue hbus h1 h2 hlow h3 hready hscript => ?count,
    fun s r low rest hturn hwait hdue hbus hlow hscript => ?low,
    fun len ρ hrun hfair n ph r hn hbus => readyFair_ends_cycle hrun hfair hn hbus⟩
  case count =>
    obtain ⟨t, ht, hcyc, hlater, htscript, hlatch⟩ :=
      run_cycle ⟨hturn, hwait, hdue, hbus⟩ h1 h2 hlow h3 hready hscript
    exact ⟨t, ht, hcyc.bus, hcyc.turn, hcyc.waiting, hlater.clock, htscript, hlatch, hlater.data.mem,
      hlater.data.io, hlater.data.rdata, hlater.data.received⟩
  case low =>
    obtain ⟨t, ph, ht, hcyc, -, htw, hlater, -, -⟩ :=
      run_ready_low ⟨hturn, hwait, hdue, hbus⟩ (.inr rfl) hlow hscript
    exact ⟨t, ht, htw rfl ▸ hcyc.bus, hlater.data.mem, hlater.data.io⟩

/-! ### TEST low -/

theorem testLow_iff {p : Params} {nmi : Bool} {i : TInput} : testLow p nmi i = true ↔
    calm p i = true ∧ i.env.test = false ∧ i.env.nmi = nmi ∧ i.env.intr = false ∧
      i.eu.req = none := by
  simp [testLow, and_assoc]

/-- A wait in which nothing but TEST = 0 can happen: the bus idles and nothing is left to be offered. -/
structure State.IdleWait (s : State) : Prop where
  turn : s.turn = .bus
  waiting : s.waiting = true
  bus : s.bus = .idle
  pending : s.pending = []
  nmiPending : s.nmiPending = false

/-- The wait refuses nothing but an interrupt request (R174). -/
theorem State.waitStep_of_no_request {s : State} {i : TInput}
    (h : (s.nmiPending || s.intrAllowed i.env.intr) = false) : ∃ t, s.waitStep i = .next t := by
  rw [State.waitStep, h]
  cases s.waiting <;> cases !i.env.test && s.testSampled <;> exact ⟨_, rfl⟩

/-- A T state of such a wait with TEST low ends it if TEST is examined, EU beginning the next instruction;
otherwise the wait goes on, one T state longer unexamined (R170, R172). -/
theorem step_of_testLow {s : State} (hs : s.IdleWait)
    (hlow : testLow s.params s.nmiPrev s.input = true) :
    ∃ t, step s = .next t ∧ t.regs = s.regs ∧ t.mem = s.mem ∧ t.script = s.script.tail ∧
      t.params = s.params ∧ t.nmiPrev = s.nmiPrev ∧
      (t.waiting = false ∧ t.turn = .start ∨
        t.IdleWait ∧ t.sinceSample = s.sinceSample + 1) := by
  obtain ⟨hcalm, htest, hnmi, hintr, hreq⟩ := testLow_iff.mp hlow
  obtain ⟨hstrap, hreset, hlast, -, haccess⟩ := calm_iff.mp hcalm
  have hnone : s.requested = false := by
    rw [State.requested, hs.nmiPending, hnmi, State.intrAllowed, hintr]
    cases s.nmiPrev <;> rfl
  obtain ⟨s1, h1⟩ := State.waitStep_of_no_request (s := s.leaveReset.sampleInterrupts s.input) hnone
  have hf1 := State.waitStep_frame h1
  have hoffer : s1.offered s.input.eu = none :=
    (State.offered_of_nil (hf1.pending.trans hs.pending) _).trans hreq
  have hstep : step s = .next
      (({ s1 with bus := .idle } : State).euEffects s.waiting s.input.eu).tick := by
    rw [step_eq_around hs.turn hstrap hreset fun v hv => State.busStep_of_idle (hv.trans hs.bus) _,
      State.around, h1]
    simp only [Out.andThen, State.beginAccess_none haccess, State.startOrIdle_of_none hoffer]
  refine ⟨_, hstep, ?_⟩
  have hf := tState_frame hs.turn hreset hstep
  refine ⟨by rw [hf.regs, hs.waiting]; rfl, ?_, hf.script, hf.params, hf.nmiPrev.trans hnmi, ?_⟩
  · simpa using hf1.mem
  cases tState_of_waiting hs.turn hreset hs.waiting hstep with
  | requested hreq' => rw [hnone] at hreq'; cases hreq'
  | ended _ _ _ hend _ _ hplace => exact .inl ⟨hend, by rw [hplace, hlast]; rfl⟩
  | goesOn _ hor hwait hplace hsince =>
    have hsam : s.testSampled = false := by
      rcases hor with h | h
      · rw [htest] at h; cases h
      · exact h
    refine .inr ⟨⟨hplace, hwait, by simp, ?_, ?_⟩, by rw [hsince, hsam]; rfl⟩
    · simpa using hf1.pending.trans hs.pending
    · rw [hf.nmiPending, hs.nmiPending, hnmi]
      cases s.nmiPrev <;> rfl

/-- TEST low for as many T states as the bound leaves ends the wait within them. -/
theorem run_testLow {s : State} {low rest : List TInput} (hs : s.IdleWait)
    (hpoll : s.pollBound = true) (hlow : ∀ i ∈ low, testLow s.params s.nmiPrev i = true)
    (hlen : max 1 s.params.testPollMax ≤ s.sinceSample + low.length)
    (hscript : s.script = low ++ rest) :
    ∃ n t, n ≤ low.length ∧ Sys2Proof.core.run n s = .next t ∧ t.waiting = false ∧
      t.turn = .start ∧ t.regs = s.regs ∧ t.mem = s.mem := by
  induction low generalizing s with
  | nil =>
    have := (s.pollBound_iff.mp hpoll) hs.waiting
    simp only [List.length_nil] at hlen
    omega
  | cons i low ih =>
    have hinput : s.input = i := State.input_of_script hscript
    obtain ⟨u, hu, hregs, hmem, huscript, hparams, hprev, hend | ⟨hwait, hsince⟩⟩ :=
      step_of_testLow hs (by rw [hinput]; exact hlow i (by simp))
    · exact ⟨1, u, by simp, core_run_one hu, hend.1, hend.2, hregs, hmem⟩
    · obtain ⟨n, t, hn, hrun, hw, htt, htregs, htmem⟩ := ih hwait (step_keeps_pollBound hpoll hu)
        (fun j hj => by rw [hparams, hprev]; exact hlow j (by simp [hj]))
        (by rw [hparams, hsince]; simp only [List.length_cons] at hlen; omega)
        (by rw [huscript, hscript]; rfl)
      refine ⟨n + 1, t, by simpa using hn, ?_, hw, htt, htregs.trans hregs, htmem.trans hmem⟩
      rw [core_run_succ, hu]
      exact hrun

/-! ### A fair TEST -/

/-- A step that stays in a wait, TEST being low in its T state, leaves TEST unexamined. -/
theorem sinceSample_of_waiting {s t : State} (h : step s = .next t) (hs : s.waiting = true)
    (ht : t.waiting = true) (hlow : s.turn = .bus → s.input.env.test = false) :
    t.sinceSample + s.clock = s.sinceSample + t.clock := by
  by_cases hturn : s.turn = .bus
  · cases hreset : s.input.env.reset with
    | true =>
      rw [step_of_reset_next hturn hreset h] at ht
      simp at ht
    | false =>
      have htest := hlow hturn
      have hclock := (tState_frame hturn hreset h).clock
      have hsince : t.sinceSample = s.sinceSample + 1 := by
        cases tState_of_waiting hturn hreset hs h with
        | requested _ _ _ _ hw hsince =>
          have hsam : s.testSampled = false := by simpa [ht, htest] using hw.symm
          rw [hsince, hsam]; rfl
        | ended _ _ _ hend => rw [hend] at ht; cases ht
        | goesOn _ hor _ _ hsince =>
          have hsam : s.testSampled = false := hor.resolve_left (by simp [htest])
          rw [hsince, hsam]; rfl
      omega
  · have hclock := (step_of_eu_frame hturn h).clock
    rw [step_of_eu hturn] at h
    rcases euStep_next h with ⟨hb, -⟩ | ⟨k, -, -, -, h⟩ | ⟨k, -, -, -, rfl⟩ | ⟨-, h⟩
    · exact absurd hb hturn
    · obtain ⟨e, resp, -, -, rfl⟩ := takeInterrupt_next h
      cases ht
    · rfl
    · rcases State.euAct_next h with ⟨-, rfl⟩ | ⟨hw, -⟩ | ⟨hw, -⟩ | ⟨hw, -⟩
      · rfl
      all_goals rw [show ({ s with turn := .bus } : State).waiting = s.waiting from rfl, hs] at hw
      all_goals cases hw

/-- Along a run that stays in a wait the law of TEST holds. -/
theorem run_pollBound {len : Option Nat} {ρ : Nat → State} (hrun : IsRun len ρ) {n : Nat}
    (hpoll : (ρ n).pollBound = true) (k : Nat) (hk : InRun len (n + k)) :
    (ρ (n + k)).pollBound = true := by
  induction k with
  | zero => exact hpoll
  | succ k ih => exact step_keeps_pollBound (ih (hk.of_le (by omega))) (hrun (n + k) hk)

/-- Along a run that stays in a wait, TEST being low, the T states without an examination add up. -/
theorem run_sinceSample {len : Option Nat} {ρ : Nat → State} (hrun : IsRun len ρ) {m : Nat} (k : Nat)
    (hk : InRun len (m + k)) (hwait : ∀ j, m ≤ j → j ≤ m + k → (ρ j).waiting = true)
    (hlow : ∀ j, m ≤ j → j < m + k → (ρ j).turn = .bus → (ρ j).input.env.test = false) :
    (ρ (m + k)).sinceSample + (ρ m).clock = (ρ m).sinceSample + (ρ (m + k)).clock := by
  induction k with
  | zero => rfl
  | succ k ih =>
    have hk' := ih (hk.of_le (by omega)) (fun j h1 h2 => hwait j h1 (by omega))
      (fun j h1 h2 => hlow j h1 (by omega))
    have hstep := sinceSample_of_waiting (hrun (m + k) hk) (hwait _ (by omega) (by omega))
      (hwait (m + k + 1) (by omega) (by omega)) (hlow _ (by omega) (by omega))
    rw [← Nat.add_assoc]
    omega

theorem run_params {len : Option Nat} {ρ : Nat → State} (hrun : IsRun len ρ) (m k : Nat)
    (hk : InRun len (m + k)) : (ρ (m + k)).params = (ρ m).params := by
  induction k with
  | zero => rfl
  | succ k ih =>
    exact (parametersAreConstant _ _ (hrun (m + k) hk)).trans (ih (hk.of_le (by omega)))

theorem testFair_ends_wait {len : Option Nat} {ρ : Nat → State} (hrun : IsRun len ρ)
    (hfair : TestFair len ρ) {n : Nat} (hn : InRun len n) (hwait : (ρ n).waiting = true)
    (hpoll : (ρ n).pollBound = true) : ∃ m, n ≤ m ∧ InRun len m ∧ (ρ m).waiting = false := by
  by_contra hno
  have hstays : ∀ j, n ≤ j → InRun len j → (ρ j).waiting = true := fun j hj hin => by
    by_contra hw
    exact hno ⟨j, hj, hin, by simpa using hw⟩
  obtain ⟨m, e, hnm, hme, he, hw | ⟨hclock, hlow⟩⟩ := hfair n hn hwait
  · rw [hstays m hnm (he.of_le hme)] at hw
    cases hw
  · obtain ⟨k, rfl⟩ := Nat.exists_eq_add_of_le hme
    have hsum := run_sinceSample hrun k he
      (fun j h1 h2 => hstays j (by omega) (he.of_le h2)) hlow
    have hbound : (ρ (m + k)).pollBound = true := by
      obtain ⟨d, hd⟩ := Nat.exists_eq_add_of_le (hnm.trans hme)
      rw [hd] at he ⊢
      exact run_pollBound hrun hpoll d he
    have hlt := (State.pollBound_iff _).mp hbound (hstays _ (by omega) he)
    rw [run_params hrun m k he] at hlt
    omega

/-- Settles O49: a bounded run of TEST low by `run_testLow`; a fair run that never left the wait would pass
the bound of TEST's law. -/
theorem fairTestEndsTheWait : Obligations.FairTestEndsTheWait := by
  refine ⟨fun s low rest hturn hwait hbus hpending hnmi hpoll hlow hlen hscript => ?_,
    fun len ρ hrun hfair n hn hwait hpoll => testFair_ends_wait hrun hfair hn hwait hpoll⟩
  exact run_testLow ⟨hturn, hwait, hbus, hpending, hnmi⟩ hpoll hlow (by omega) hscript

end Sys2Proof.Machine
end

section
/-!
PROOFS. The five transfer rows in one form: which bytes a row moves, on which lanes, and what it delivers;
then what each row does to memory, ports, queue and EU, where it stops, and what it leaves alone.
-/

namespace Sys2Proof

/-! ### The rows in one form -/

/-- The instruction of a transfer row (R151 to R155); a row that is no half of a word has no use for `d`. -/
def Row.instr (r : Row) (a : Addr) (op : BusOp) (d : DatumId) : Instr :=
  match r with
  | .wEven => .xferWEven a op
  | .bEven => .xferBEven a op
  | .bOdd => .xferBOdd a op
  | .wOdd1 => .xferWOdd1 a ⟨op, d⟩
  | .wOdd2 => .xferWOdd2 a ⟨op, d⟩

/-- The addresses of the bytes a row moves. -/
def Row.addrs (r : Row) (a : Addr) : List Addr :=
  match r with
  | .wEven => [a, a + 1]
  | .bEven | .bOdd | .wOdd1 | .wOdd2 => [a]

/-- What a write of `w` on a row stores, each byte from its lane. -/
def Row.cells (r : Row) (a : Addr) (w : Word) : List (Addr × Byte) :=
  match r with
  | .wEven => [(a, lowByte w), (a + 1, highByte w)]
  | .bEven | .wOdd2 => [(a, lowByte w)]
  | .bOdd | .wOdd1 => [(a, highByte w)]

theorem Row.addrs_of_cells (r : Row) (a : Addr) (w : Word) : (r.cells a w).map Prod.fst = r.addrs a := by
  cases r <;> rfl

theorem Row.mem_addrs (r : Row) (a : Addr) : a ∈ r.addrs a := by cases r <;> simp [Row.addrs]

/-- Only the row that is refused at FFFFFH may not be there (R60). -/
def Row.Allows (r : Row) (a : Addr) : Prop := r = .wOdd1 → a ≠ 0xFFFFF

theorem Row.allows_of_wellFormed {r : Row} {a : Addr} {op : BusOp} {d : DatumId}
    (h : (r.instr a op d).wellFormed = true) : r.Allows a := by
  rintro rfl
  simp only [Row.instr, Instr.wellFormed, Bool.and_eq_true, bne_iff_ne] at h
  exact h.1.2

/-- The five forms in which the statements write a transfer. -/
theorem exists_row {i : Instr} {a : Addr} {op : BusOp} {d : DatumId}
    (h : i = .xferWEven a op ∨ i = .xferBEven a op ∨ i = .xferBOdd a op ∨ i = .xferWOdd1 a ⟨op, d⟩ ∨
      i = .xferWOdd2 a ⟨op, d⟩) : ∃ r : Row, i = r.instr a op d := by
  rcases h with h | h | h | h | h
  · exact ⟨.wEven, h⟩
  · exact ⟨.bEven, h⟩
  · exact ⟨.bOdd, h⟩
  · exact ⟨.wOdd1, h⟩
  · exact ⟨.wOdd2, h⟩

theorem Params.portCount_le (p : Params) : p.portCount ≤ 65536 :=
  Nat.pow_le_pow_right (by decide) (Nat.min_le_right p.ioAddrBits 16)

namespace Machine

/-- The bytes a read on a row finds, with their addresses. -/
def State.rowBytes (s : State) (r : Row) (op : BusOp) (a : Addr) : List QByte :=
  (r.addrs a).map fun p => ⟨p, s.busByte op p⟩

/-- The data bus of a read on a row: a byte on its lane, the other lane free (R156). -/
def State.rowWord (s : State) (r : Row) (op : BusOp) (a : Addr) : Word :=
  match r with
  | .wEven => joinBytes (s.busByte op (a + 1)) (s.busByte op a)
  | .bEven | .wOdd2 => joinBytes (Config.freeLaneByte s.clock 1) (s.busByte op a)
  | .bOdd | .wOdd1 => joinBytes (s.busByte op a) (Config.freeLaneByte s.clock 0)

/-- What a read on a row gives EU. -/
def State.rowDelivery (s : State) (r : Row) (op : BusOp) (a : Addr) (d : DatumId) : Delivery :=
  match r with
  | .wEven => .word (joinBytes (s.busByte op (a + 1)) (s.busByte op a))
  | .bEven | .bOdd => .byte (s.busByte op a)
  | .wOdd1 => .lowHalf d (s.busByte op a)
  | .wOdd2 => .highHalf d (s.busByte op a)

/-- The state after a data read on a row (R100). -/
def State.delivered (s : State) (r : Row) (op : BusOp) (a : Addr) (d : DatumId) : State :=
  { s with rdata := s.rowWord r op a }.receive (s.rowDelivery r op a d)

@[simp] theorem State.delivered_mem (s : State) (r : Row) (op : BusOp) (a : Addr) (d : DatumId) :
    (s.delivered r op a d).mem = s.mem := by simp [State.delivered]

@[simp] theorem State.delivered_io (s : State) (r : Row) (op : BusOp) (a : Addr) (d : DatumId) :
    (s.delivered r op a d).io = s.io := by simp [State.delivered]

@[simp] theorem State.delivered_rdata (s : State) (r : Row) (op : BusOp) (a : Addr) (d : DatumId) :
    (s.delivered r op a d).rdata = s.rowWord r op a := by simp [State.delivered]

@[simp] theorem State.delivered_reachable (s : State) (r : Row) (op op' : BusOp) (a p : Addr)
    (d : DatumId) : (s.delivered r op a d).reachable op' p = s.reachable op' p := by
  simp [State.delivered, State.reachable]

/-- The word at FFFFFH is refused in its first cycle (R60, R154). -/
theorem exec_wOdd1_top (h : HalfOp) (s : State) :
    exec (.xferWOdd1 0xFFFFF h) s = .refused .wordAtTopOfMemory := by
  simp [exec, execXferWOdd1]

theorem exec_wOdd1_eq {a : Addr} (ha : a ≠ 0xFFFFF) (h : HalfOp) (s : State) :
    exec (.xferWOdd1 a h) s =
      match opWdata h.op with
      | some w => s.busWrite h.op (Row.wOdd1.cells a w)
      | none => s.busRead h.op (s.rowBytes .wOdd1 h.op a) (s.rowWord .wOdd1 h.op a)
          (s.rowDelivery .wOdd1 h.op a h.datum) :=
  if_neg ha

/-- A write on a row is a bus write of the row's bytes. -/
theorem exec_row_write {r : Row} {a : Addr} {op : BusOp} {w : Word} (hw : opWdata op = some w)
    (hr : r.Allows a) (d : DatumId) (s : State) :
    exec (r.instr a op d) s = s.busWrite op (r.cells a w) := by
  cases r with
  | wOdd1 => rw [Row.instr, exec_wOdd1_eq (hr rfl)]; simp only [hw]
  | wEven => simp only [Row.instr, exec, execXferWEven, hw]; rfl
  | bEven => simp only [Row.instr, exec, execXferBEven, hw]; rfl
  | bOdd => simp only [Row.instr, exec, execXferBOdd, hw]; rfl
  | wOdd2 => simp only [Row.instr, exec, execXferWOdd2, hw]; rfl

/-- A read on a row is a bus read of the row's bytes. -/
theorem exec_row_read {r : Row} {a : Addr} {op : BusOp} (hw : opWdata op = none) (hr : r.Allows a)
    (d : DatumId) (s : State) :
    exec (r.instr a op d) s =
      s.busRead op (s.rowBytes r op a) (s.rowWord r op a) (s.rowDelivery r op a d) := by
  cases r with
  | wOdd1 => rw [Row.instr, exec_wOdd1_eq (hr rfl)]; simp only [hw]
  | wEven => simp only [Row.instr, exec, execXferWEven, hw]; rfl
  | bEven => simp only [Row.instr, exec, execXferBEven, hw]; rfl
  | bOdd => simp only [Row.instr, exec, execXferBOdd, hw]; rfl
  | wOdd2 => simp only [Row.instr, exec, execXferWOdd2, hw]; rfl

/-- A transfer that gives a next state is not the refused row. -/
theorem allows_of_next {r : Row} {a : Addr} {op : BusOp} {d : DatumId} {s t : State}
    (h : exec (r.instr a op d) s = .next t) : r.Allows a := by
  rintro rfl rfl
  rw [Row.instr, exec_wOdd1_top] at h
  cases h

/-! ### The two halves of a bus cycle, by operation -/

/-- The byte at `a` may be written: no queued byte of memory (R57), a port that exists (R41). -/
def State.takes (s : State) (op : BusOp) (a : Addr) : Bool :=
  match opSpace op with
  | .mem => !s.queued a
  | .io => s.reachable op a
  | .intAck => true

/-- The state with bytes stored in the operation's space. -/
def State.store (s : State) (op : BusOp) (cells : List (Addr × Byte)) : State :=
  match opSpace op with
  | .mem => { s with mem := s.mem.writeAll cells }
  | .io => { s with io := s.io.writeAll cells }
  | .intAck => s

theorem State.busWrite_of_takes {s : State} {op : BusOp} {cells : List (Addr × Byte)}
    (h : ∀ c ∈ cells, s.takes op c.1 = true) : s.busWrite op cells = .next (s.store op cells) := by
  unfold State.takes at h
  unfold State.busWrite State.store
  cases hop : opSpace op with
  | mem =>
    have hq : (cells.any fun c => s.queued c.1) = false := by simpa [hop] using h
    simp only [hq]
    rfl
  | io =>
    have hp : (cells.all fun c => s.reachable op c.1) = true := by simpa [hop] using h
    simp only [hp, if_true]
  | intAck => rfl

/-- What a write on a row stores is in the addresses the row moves. -/
theorem exec_row_store {r : Row} {a : Addr} {op : BusOp} {w : Word} (hw : opWdata op = some w)
    (hr : r.Allows a) {s : State} (h : ∀ p ∈ r.addrs a, s.takes op p = true) (d : DatumId) :
    exec (r.instr a op d) s = .next (s.store op (r.cells a w)) := by
  rw [exec_row_write hw hr, State.busWrite_of_takes]
  intro c hc
  exact h c.1 (r.addrs_of_cells a w ▸ List.mem_map_of_mem hc)

theorem State.busRead_fetch {s : State} {bytes : List QByte} (r : Word) (d : Delivery)
    (h : s.queue.length + bytes.length ≤ s.params.queueLen) :
    s.busRead .fetch bytes r d = .next { s with rdata := r, queue := s.queue ++ bytes } := by
  simp [State.busRead, State.reachable, opSpace, opPurpose, h]

theorem State.busRead_fetch_overflow {s : State} {bytes : List QByte} (r : Word) (d : Delivery)
    (h : s.params.queueLen < s.queue.length + bytes.length) :
    s.busRead .fetch bytes r d = .refused .queueOverflow := by
  simp [State.busRead, State.reachable, opSpace, opPurpose, h]

theorem State.busRead_intAck (s : State) (bytes : List QByte) (r : Word) (d : Delivery) :
    s.busRead .intAck bytes r d = .next ({ s with rdata := r, acks := s.acks.tail }.receive d) := by
  simp [State.busRead, State.reachable, opSpace, opPurpose]

/-- Every next state of a transfer row, by its operation. -/
inductive RowNext (r : Row) (a : Addr) (d : DatumId) (s : State) : BusOp → State → Prop where
  | memWrite (seg : SegReg) (w : Word) :
      RowNext r a d s (.memWrite seg w) { s with mem := s.mem.writeAll (r.cells a w) }
  | ioWrite (w : Word) : RowNext r a d s (.ioWrite w) { s with io := s.io.writeAll (r.cells a w) }
  | fetch : RowNext r a d s .fetch { s with
      rdata := s.rowWord r .fetch a, queue := s.queue ++ s.rowBytes r .fetch a }
  | memRead (seg : SegReg) : RowNext r a d s (.memRead seg) (s.delivered r (.memRead seg) a d)
  | ioRead : RowNext r a d s .ioRead (s.delivered r .ioRead a d)
  | intAck : RowNext r a d s .intAck
      ({ s with rdata := s.rowWord r .intAck a, acks := s.acks.tail }.receive
        (s.rowDelivery r .intAck a d))

theorem exec_row_next {r : Row} {a : Addr} {op : BusOp} {d : DatumId} {s t : State}
    (h : exec (r.instr a op d) s = .next t) : RowNext r a d s op t := by
  have hr := allows_of_next h
  cases hw : opWdata op with
  | some w =>
    rw [exec_row_write hw hr] at h
    rcases State.busWrite_next h with ⟨hs, -, rfl⟩ | ⟨hs, rfl⟩ | ⟨hs, -⟩ <;> cases op <;> cases hs <;>
      cases hw
    · exact .memWrite _ w
    · exact .ioWrite w
  | none =>
    rw [exec_row_read hw hr] at h
    rcases State.busRead_next h with ⟨hp, -, rfl⟩ | ⟨hp, rfl⟩ | ⟨hp, rfl⟩ <;> cases op <;> cases hp <;>
      cases hw
    · exact .fetch
    · exact .memRead _
    · exact .ioRead
    · exact .intAck

/-! ### The obligations: what each row does -/

/-- Settles O6: a row's read of memory, for each row. -/
theorem memoryReadsDeliver : Obligations.MemoryReadsDeliver := by
  intro s a seg d
  have read (r : Row) (hwf : (r.instr a (.memRead seg) d).wellFormed = true) :
      exec (r.instr a (.memRead seg) d) s = .next (s.delivered r (.memRead seg) a d) := by
    rw [exec_row_read rfl (Row.allows_of_wellFormed hwf), State.busRead_memRead, State.delivered]
  exact ⟨read .wEven, read .bEven, read .bOdd, read .wOdd1, read .wOdd2⟩

/-- Settles O7: a row's write of memory, for each row; no byte it moves is a queued one. -/
theorem memoryWritesStore : Obligations.MemoryWritesStore := by
  intro s a seg w d hq
  have write (r : Row) (hwf : (r.instr a (.memWrite seg w) d).wellFormed = true)
      (hfree : ∀ p ∈ r.addrs a, s.queued p = false) :
      exec (r.instr a (.memWrite seg w) d) s = .next (s.store (.memWrite seg w) (r.cells a w)) :=
    exec_row_store rfl (Row.allows_of_wellFormed hwf) (fun p hp => by
      simp [State.takes, opSpace, hfree p hp]) d
  have one : ∀ p ∈ [a], s.queued p = false := by simpa using hq
  exact ⟨fun hwf hq' => write .wEven hwf (by simpa [Row.addrs] using ⟨hq, hq'⟩),
    fun hwf => write .bEven hwf one, fun hwf => write .bOdd hwf one, fun hwf => write .wOdd1 hwf one,
    fun hwf => write .wOdd2 hwf one⟩

/-- Settles O8: a row's read of ports that exist, for each row. -/
theorem portReadsDeliver : Obligations.PortReadsDeliver := by
  intro s a d ha port
  have read (r : Row) (hwf : (r.instr a .ioRead d).wellFormed = true)
      (hports : ∀ p ∈ r.addrs a, p.toNat < s.params.portCount) :
      exec (r.instr a .ioRead d) s = .next (s.delivered r .ioRead a d) := by
    rw [exec_row_read rfl (Row.allows_of_wellFormed hwf), State.busRead_ioRead, State.delivered]
    simpa [State.rowBytes] using hports
  have one : ∀ p ∈ [a], p.toNat < s.params.portCount := by simpa using ha
  exact ⟨fun hwf ha' => read .wEven hwf (by simpa [Row.addrs] using ⟨ha, ha'⟩),
    fun hwf => read .bEven hwf one, fun hwf => read .bOdd hwf one, fun hwf => read .wOdd1 hwf one,
    fun hwf => read .wOdd2 hwf one⟩

/-- Settles O9: a row's write of ports that exist, for each row. -/
theorem portWritesStore : Obligations.PortWritesStore := by
  intro s a w d ha
  have write (r : Row) (hwf : (r.instr a (.ioWrite w) d).wellFormed = true)
      (hports : ∀ p ∈ r.addrs a, p.toNat < s.params.portCount) :
      exec (r.instr a (.ioWrite w) d) s = .next (s.store (.ioWrite w) (r.cells a w)) :=
    exec_row_store rfl (Row.allows_of_wellFormed hwf) (fun p hp => by
      simp [State.takes, State.reachable, opSpace, hports p hp]) d
  have one : ∀ p ∈ [a], p.toNat < s.params.portCount := by simpa using ha
  exact ⟨fun hwf ha' => write .wEven hwf (by simpa [Row.addrs] using ⟨ha, ha'⟩),
    fun hwf => write .bEven hwf one, fun hwf => write .bOdd hwf one, fun hwf => write .wOdd1 hwf one,
    fun hwf => write .wOdd2 hwf one⟩

/-- Settles O10: a row's fetch whose bytes fit, for each row. -/
theorem fetchesFillTheQueue : Obligations.FetchesFillTheQueue := by
  intro s a d hone
  have fetch (r : Row) (hwf : (r.instr a .fetch d).wellFormed = true)
      (hfit : s.queue.length + (s.rowBytes r .fetch a).length ≤ s.params.queueLen) :
      exec (r.instr a .fetch d) s = .next { s with
        rdata := s.rowWord r .fetch a, queue := s.queue ++ s.rowBytes r .fetch a } := by
    rw [exec_row_read rfl (Row.allows_of_wellFormed hwf), State.busRead_fetch _ _ hfit]
  exact ⟨fun hwf htwo => fetch .wEven hwf htwo, fun hwf => fetch .bEven hwf hone,
    fun hwf => fetch .bOdd hwf hone, fun hwf => fetch .wOdd1 hwf hone, fun hwf => fetch .wOdd2 hwf hone⟩

/-- Settles O11: a row's acknowledge cycle, for each row. -/
theorem acknowledgeCyclesComplete : Obligations.AcknowledgeCyclesComplete := by
  intro s a d ack
  have read (r : Row) (hwf : (r.instr a .intAck d).wellFormed = true) :
      exec (r.instr a .intAck d) s = .next ({ s with
        rdata := s.rowWord r .intAck a, acks := s.acks.tail }.receive (s.rowDelivery r .intAck a d)) := by
    rw [exec_row_read rfl (Row.allows_of_wellFormed hwf), State.busRead_intAck]
  exact ⟨read .wEven, read .bEven, read .bOdd, read .wOdd1, read .wOdd2⟩

/-- Settles O12: by definition. -/
theorem waitEntersTheWaitingState : Obligations.WaitEntersTheWaitingState := fun _ => rfl

/-! ### Where a transfer stops -/

/-- A memory write is refused exactly for a queued byte among those it stores (R57). -/
theorem State.busWrite_memWrite_refused_iff (s : State) (seg : SegReg) (w : Word)
    (cells : List (Addr × Byte)) :
    s.busWrite (.memWrite seg w) cells = .refused .writeToQueuedInstruction ↔
      ∃ c ∈ cells, s.queued c.1 = true := by
  cases hq : cells.any fun c => s.queued c.1 with
  | true => simp only [State.busWrite, opSpace, hq]; simpa using hq
  | false =>
    rw [State.busWrite_memWrite s seg w cells hq]
    simpa using hq

/-- Settles O13: each row's write is refused for the bytes the row moves. -/
theorem writesToQueuedBytesAreRefused : Obligations.WritesToQueuedBytesAreRefused := by
  intro s a seg w d
  have refused (r : Row) (hr : r.Allows a) :
      exec (r.instr a (.memWrite seg w) d) s = .refused .writeToQueuedInstruction ↔
        ∃ c ∈ r.cells a w, s.queued c.1 = true := by
    rw [exec_row_write rfl hr, State.busWrite_memWrite_refused_iff]
  refine ⟨(refused .wEven nofun).trans ?_, (refused .bEven nofun).trans ?_,
    (refused .bOdd nofun).trans ?_, fun ha => (refused .wOdd1 fun _ => ha).trans ?_,
    (refused .wOdd2 nofun).trans ?_⟩
  all_goals simp [Row.cells]

/-- An I/O transfer at a port that does not exist is refused on every row (R41). -/
theorem exec_row_noSuchPort {r : Row} {a : Addr} {op : BusOp} {d : DatumId} {s : State}
    (hop : opSpace op = .io) (hr : r.Allows a) (ha : s.params.portCount ≤ a.toNat) :
    exec (r.instr a op d) s = .refused .noSuchPort := by
  have hmiss : s.reachable op a = false := by simp [State.reachable, hop, ha]
  cases hw : opWdata op with
  | some w =>
    have hall : ((r.cells a w).all fun c => s.reachable op c.1) = false := by
      rw [List.all_eq_false]
      obtain ⟨c, hc, rfl⟩ := List.mem_map.mp ((r.addrs_of_cells a w).symm ▸ r.mem_addrs a)
      exact ⟨c, hc, by simp [hmiss]⟩
    rw [exec_row_write hw hr, State.busWrite, hop]
    simp only [hall]
    rfl
  | none =>
    have hall : ((s.rowBytes r op a).all fun q => s.reachable op q.addr) = false := by
      rw [List.all_eq_false]
      exact ⟨⟨a, s.busByte op a⟩, List.mem_map_of_mem (r.mem_addrs a), by simp [hmiss]⟩
    rw [exec_row_read hw hr, State.busRead, hall]
    rfl

/-- Settles O15: the count of ports; the refusals on every row; and what is objected to an I/O request. -/
theorem missingPortsAndFullQueuesStop : Obligations.MissingPortsAndFullQueuesStop := by
  refine ⟨fun p => ⟨fun hle => ?few, fun hge => ?many⟩, fun s a w op d i hi => ⟨?port, ?overflow⟩,
    fun s t e r hr h hop => ?starts⟩
  case few => rw [Params.portCount, Nat.min_eq_left hle]
  case many => simp [Params.portCount, Nat.min_eq_right hge]
  case port =>
    intro hop hne ha
    obtain ⟨r, rfl⟩ := exists_row hi
    refine exec_row_noSuchPort (by rcases hop with rfl | rfl <;> rfl) ?_ ha
    rintro rfl rfl
    rcases hne with h | h <;> exact h rfl
  case overflow =>
    intro hop hwf hfull
    obtain ⟨r, rfl⟩ := exists_row hi
    subst hop
    rw [exec_row_read rfl (Row.allows_of_wellFormed hwf)]
    refine State.busRead_fetch_overflow _ _ (hfull.trans_le (Nat.add_le_add_left ?_ _))
    cases r <;> simp [Row.instr, State.rowBytes, Row.addrs]
  case starts =>
    rcases State.startOrIdle_next h with ⟨hno, -⟩ | ⟨r', hr', hobj, -⟩
    · rw [hr] at hno; cases hno
    · rw [hr] at hr'
      cases hr'
      obtain ⟨-, -, -, -, -, hport⟩ := State.objection_none hobj
      have hlt : r.addr.toNat < s.params.portCount := by
        rcases hop with hop | ⟨w, hop⟩ <;> rw [hop] at hport <;> exact of_decide_eq_true hport
      refine ⟨hlt, BitVec.eq_of_toNat_eq ?_⟩
      have := s.params.portCount_le
      rw [BitVec.extractLsb'_toNat, Nat.shiftRight_eq_div_pow]
      change r.addr.toNat / 2 ^ 16 % 2 ^ 4 = 0
      omega

/-! ### Frames -/

/-- A row that is no half of a word delivers no half (R154, R155). -/
theorem State.receive_halves_of_whole {s u : State} {r : Row} {op : BusOp} {a : Addr} {d : DatumId}
    (h : r = .wEven ∨ r = .bEven ∨ r = .bOdd) :
    (u.receive (s.rowDelivery r op a d)).halves = u.halves := by
  rcases h with rfl | rfl | rfl <;> rfl

/-- A row delivers no half of a datum but its own. -/
theorem State.lowOf_receive_row {s u : State} (r : Row) (op : BusOp) (a : Addr) {d d' : DatumId}
    (h : d' ≠ d) : (u.receive (s.rowDelivery r op a d)).lowOf d' = u.lowOf d' := by
  refine State.lowOf_receive u _ d' fun e b hb => ?_
  cases r <;> simp [State.rowDelivery] at hb <;> rw [← hb.1] <;> exact h

theorem exec_row_waiting {r : Row} {a : Addr} {op : BusOp} {d : DatumId} {s t : State}
    (h : exec (r.instr a op d) s = .next t) :
    t.waiting = s.waiting ∧ t.sinceSample = s.sinceSample := by
  cases exec_row_next h <;> simp [State.delivered]

theorem Row.whole_of_instr {r : Row} {a : Addr} {op : BusOp} {d : DatumId}
    (h : r.instr a op d = .xferWEven a op ∨ r.instr a op d = .xferBEven a op ∨
      r.instr a op d = .xferBOdd a op) : r = .wEven ∨ r = .bEven ∨ r = .bOdd := by
  cases r <;> simp [Row.instr] at h ⊢

/-- Settles O16: the frame of every instruction, and the rest by the operation. -/
theorem transfersLeaveTheRest : Obligations.TransfersLeaveTheRest := by
  intro i s t a op d hi h
  obtain ⟨r, rfl⟩ := exists_row hi
  have f := exec_frame h
  obtain ⟨hwait, hsince⟩ := exec_row_waiting h
  refine ⟨⟨f.params, f.regs, f.bus, f.latch, f.nmiPrev, f.nmiPending, f.intrAccept, hwait, hsince,
    f.inReset, f.turn, f.pending, f.nest, f.responseDue, f.executing, f.firstFetchDue, f.events, f.clock,
    f.script, f.program⟩, ?_⟩
  have hlow {u : State} {op' : BusOp} (d' : DatumId) (hd : d' ≠ d) :
      (u.receive (s.rowDelivery r op' a d)).lowOf d' = u.lowOf d' :=
    State.lowOf_receive_row r op' a hd
  have hhalves {u : State} {op' : BusOp} {op'' : BusOp}
      (hw : r.instr a op'' d = .xferWEven a op'' ∨ r.instr a op'' d = .xferBEven a op'' ∨
        r.instr a op'' d = .xferBOdd a op'') :
      (u.receive (s.rowDelivery r op' a d)).halves = u.halves :=
    State.receive_halves_of_whole (Row.whole_of_instr hw)
  cases exec_row_next h with
  | memWrite | ioWrite | fetch =>
    simp [opWdata, opSpace, opPurpose]
    exact fun _ _ => rfl
  | memRead | ioRead | intAck =>
    refine ⟨?_, ?_, ?_, ?_, ?_, ?_, ?_, fun hw => hhalves hw, fun d' hd => hlow d' hd⟩ <;>
      simp [opWdata, opSpace, opPurpose, State.delivered]

/-! ### Bytes of memory by address -/

theorem Memory.read_write_addr {m : Memory} (h : m.wf = true) (a b : Addr) (v : Byte) :
    (m.write a.toNat v).read b.toNat = if b = a then v else m.read b.toNat := by
  rw [Memory.read_write h]
  simp only [BitVec.toNat_inj]

/-- Settles O17: the one or two stores of a row, by the laws of memory. -/
theorem writesTouchOnlyTheirBytes : Obligations.WritesTouchOnlyTheirBytes := by
  intro s t a seg w d hm
  have one (v : Byte) : (s.mem.write a.toNat v).read a.toNat = v ∧
      ∀ b, b ≠ a.toNat → (s.mem.write a.toNat v).read b = s.mem.read b :=
    ⟨Memory.read_write_same hm _ _, fun b hb => Memory.read_write_other hm v hb⟩
  refine ⟨fun _ h => ?word, fun i hi h => ?low, fun i hi h => ?high⟩
  case word =>
    cases exec_row_next (r := .wEven) (d := d) h
    have hm' := Memory.write_wf a.toNat (lowByte w) hm
    refine ⟨?_, Memory.read_write_same hm' _ _, fun b h0 h1 => ?_⟩
    · exact (Memory.read_write_other hm' _ (toNat_ne_succ a)).trans (one _).1
    · exact (Memory.read_write_other hm' _ h1).trans ((one _).2 b h0)
  case low =>
    rcases hi with rfl | rfl
    · cases exec_row_next (r := .bEven) (d := d) h; exact one _
    · cases exec_row_next (r := .wOdd2) (d := d) h; exact one _
  case high =>
    rcases hi with rfl | rfl
    · cases exec_row_next (r := .bOdd) (d := d) h; exact one _
    · cases exec_row_next (r := .wOdd1) (d := d) h; exact one _

end Machine

end Sys2Proof
end

section
/-!
PROOFS. Whole accesses and bus cycles: the row of a cycle, its bytes by lanes, and reading back what was
written.
-/

namespace Sys2Proof

/-! ### The row of a bus cycle -/

/-- The row of a request, by its transfer code and what EU knows (R160); `none` is the code 1 1. -/
def Request.row (r : Request) : Option Row :=
  match r.bhe, r.addr.getLsbD 0, r.half with
  | false, false, _ => some .wEven
  | true, false, none => some .bEven
  | true, false, some _ => some .wOdd2
  | false, true, none => some .bOdd
  | false, true, some _ => some .wOdd1
  | true, true, _ => none

/-- The three codes of R73 and their rows. -/
theorem Request.row_some {r : Request} {row : Row} (h : r.row = some row) :
    (r.addr.getLsbD 0 = false ∧ r.bhe = false ∧ row = .wEven) ∨
    (r.addr.getLsbD 0 = false ∧ r.bhe = true ∧ (row = .bEven ∨ row = .wOdd2)) ∨
    (r.addr.getLsbD 0 = true ∧ r.bhe = false ∧ (row = .bOdd ∨ row = .wOdd1)) := by
  unfold Request.row at h
  split at h <;> cases h
  case h_1 hb ha => exact .inl ⟨ha, hb, rfl⟩
  case h_2 hb ha _ => exact .inr (.inl ⟨ha, hb, .inl rfl⟩)
  case h_3 hb ha _ => exact .inr (.inl ⟨ha, hb, .inr rfl⟩)
  case h_4 hb ha _ => exact .inr (.inr ⟨ha, hb, .inl rfl⟩)
  case h_5 hb ha _ => exact .inr (.inr ⟨ha, hb, .inr rfl⟩)

/-- A code that selects no byte has no row, and no other (R79). -/
theorem Request.row_none_iff (r : Request) :
    r.row = none ↔ r.bhe = true ∧ r.addr.getLsbD 0 = true := by
  unfold Request.row
  cases r.bhe <;> cases r.addr.getLsbD 0 <;> cases r.half <;> simp

/-- A write's bytes by lanes are those its row stores (R53, R151 to R155). -/
theorem Request.row_cells {r : Request} {row : Row} (h : r.row = some row) (w : Word) :
    row.cells r.addr w =
      (if r.low then [(evenOf r.addr, lowByte w)] else []) ++
      (if r.high then [(oddOf r.addr, highByte w)] else []) := by
  unfold Request.low Request.high
  rcases Request.row_some h with ⟨ha, hb, rfl⟩ | ⟨ha, hb, rfl | rfl⟩ | ⟨ha, hb, rfl | rfl⟩
  · rw [evenOf_of_even ha, oddOf_of_even ha, ha, hb]; rfl
  · rw [evenOf_of_even ha, ha, hb]; rfl
  · rw [evenOf_of_even ha, ha, hb]; rfl
  · rw [oddOf_of_odd ha, ha, hb]; rfl
  · rw [oddOf_of_odd ha, ha, hb]; rfl

/-- The datum of a request that is a half of a word; any other has no use for it. -/
def Request.datum (r : Request) : DatumId := r.half.getD 0

/-- The instruction of a request is that of its row (R160). -/
theorem Request.instr_eq_row (r : Request) :
    r.instr = r.row.map fun row => row.instr r.addr r.op r.datum := by
  rw [Request.instr_eq, Request.row, Request.datum]
  cases r.bhe <;> cases r.addr.getLsbD 0 <;> cases r.half <;> rfl

namespace Machine

/-- In `Effect` a cycle runs its row (R53, R100). -/
theorem State.effect_of_row {r : Request} {row : Row} (h : r.row = some row) (s : State) :
    s.effect r = exec (row.instr r.addr r.op r.datum) s := by
  rw [State.effect, Request.instr_eq_row, h]
  rfl

theorem State.effect_of_no_row {r : Request} (h : r.row = none) (s : State) :
    s.effect r = .next s := by
  rw [State.effect, Request.instr_eq_row, h]
  rfl

/-- The data bus of a read by lanes: on each selected lane, the byte of that lane's address (R53). -/
theorem State.rowWord_lanes {r : Request} {row : Row} (h : r.row = some row) (s : State) (op : BusOp) :
    (r.low = true → lowByte (s.rowWord row op r.addr) = s.busByte op (evenOf r.addr)) ∧
    (r.high = true → highByte (s.rowWord row op r.addr) = s.busByte op (oddOf r.addr)) := by
  unfold Request.low Request.high
  rcases Request.row_some h with ⟨ha, hb, rfl⟩ | ⟨ha, hb, rfl | rfl⟩ | ⟨ha, hb, rfl | rfl⟩
  · rw [evenOf_of_even ha, oddOf_of_even ha]
    exact ⟨fun _ => lowByte_joinBytes _ _, fun _ => highByte_joinBytes _ _⟩
  · rw [evenOf_of_even ha, hb]
    exact ⟨fun _ => lowByte_joinBytes _ _, nofun⟩
  · rw [evenOf_of_even ha, hb]
    exact ⟨fun _ => lowByte_joinBytes _ _, nofun⟩
  · rw [oddOf_of_odd ha, ha]
    exact ⟨nofun, fun _ => highByte_joinBytes _ _⟩
  · rw [oddOf_of_odd ha, ha]
    exact ⟨nofun, fun _ => highByte_joinBytes _ _⟩

/-- What a read, in `Effect`, puts on `rdata` (R53). -/
theorem State.effect_rdata {s t : State} {r : Request} (h : s.effect r = .next t)
    (hread : opWdata r.op = none) :
    (r.low = true → lowByte t.rdata = s.busByte r.op (evenOf r.addr)) ∧
    (r.high = true → highByte t.rdata = s.busByte r.op (oddOf r.addr)) := by
  cases hrow : r.row with
  | none =>
    obtain ⟨hb, ha⟩ := (Request.row_none_iff r).mp hrow
    unfold Request.low Request.high
    rw [ha, hb]
    exact ⟨nofun, nofun⟩
  | some row =>
    rw [State.effect_of_row hrow] at h
    have hrdata : t.rdata = s.rowWord row r.op r.addr := by
      generalize r.op = op at h hread ⊢
      cases exec_row_next h with
      | memWrite | ioWrite => cases hread
      | fetch => rfl
      | memRead | ioRead | intAck => simp
    rw [hrdata]
    exact State.rowWord_lanes hrow s r.op

/-- The two lanes' addresses differ in bit 0. -/
theorem evenOf_ne_oddOf (a : Addr) : evenOf a ≠ oddOf a := by
  intro h
  have hbit := congrArg (fun b => b.getLsbD 0) h
  simp only [evenOf_getLsbD a (show 0 < 20 by decide), oddOf_getLsbD a (show 0 < 20 by decide)] at hbit
  simp at hbit

/-- Storing the bytes of two lanes: each address takes its own, if its lane is selected. -/
theorem Memory.read_lanes {m : Memory} (hm : m.wf = true) (low high : Bool) (a b : Addr)
    (v w : Byte) :
    (m.writeAll ((if low then [(evenOf a, v)] else []) ++
      (if high then [(oddOf a, w)] else []))).read b.toNat =
      if low = true ∧ b = evenOf a then v else if high = true ∧ b = oddOf a then w
      else m.read b.toNat := by
  have hm' := Memory.write_wf (evenOf a).toNat v hm
  have hne := evenOf_ne_oddOf a
  cases low <;> cases high
  · simp [Memory.writeAll]
  · simp [Memory.writeAll, Memory.read_write_addr hm]
  · simp [Memory.writeAll, Memory.read_write_addr hm]
  · simp only [Memory.writeAll, if_true, List.cons_append, List.nil_append, List.foldl_cons,
      List.foldl_nil, Memory.read_write_addr hm', Memory.read_write_addr hm, true_and]
    by_cases h : b = oddOf a
    · rw [if_pos h, if_neg (h ▸ hne.symm), if_pos h]
    · rw [if_neg h, if_neg h]

/-- Settles O22: the cells and the word of the cycle's row, by lanes; the code 1 1 selects none. -/
theorem effectFollowsTheLanes : Obligations.EffectFollowsTheLanes := by
  intro s t r h hm
  refine ⟨fun seg w hop b => ?write, fun seg hop => ?read⟩
  case read => simpa [hop, State.busByte, opSpace] using State.effect_rdata h (by rw [hop]; rfl)
  case write =>
    cases hrow : r.row with
    | none =>
      obtain ⟨hb, ha⟩ := (Request.row_none_iff r).mp hrow
      rw [State.effect_of_no_row hrow] at h
      cases h
      simp only [Request.low, Request.high, ha, hb]
      simp
    | some row =>
      rw [State.effect_of_row hrow, hop] at h
      cases exec_row_next h
      rw [Request.row_cells hrow]
      exact Memory.read_lanes hm r.low r.high r.addr b _ _

/-! ### Whole accesses -/

theorem opSpace_withWdata (op : BusOp) (w : Word) : opSpace (opWithWdata op w) = opSpace op := by
  cases op <;> rfl

theorem opSeg_withWdata (op : BusOp) (w : Word) : opSeg (opWithWdata op w) = opSeg op := by
  cases op <;> rfl

theorem opPurpose_withWdata (op : BusOp) (w : Word) :
    opPurpose (opWithWdata op w) = opPurpose op := by
  cases op <;> rfl

theorem opWdata_withWdata {op : BusOp} {v : Word} (h : opWdata op = some v) (w : Word) :
    opWdata (opWithWdata op w) = some w := by
  cases op <;> cases h <;> rfl

/-- A read has no data to replace. -/
theorem opWithWdata_of_read {op : BusOp} (h : opWdata op = none) (w : Word) :
    opWithWdata op w = op := by
  cases op <;> cases h <;> rfl

theorem State.takes_withWdata (s : State) (op : BusOp) (w : Word) (a : Addr) :
    s.takes (opWithWdata op w) a = s.takes op a := by
  cases op <;> rfl

theorem State.store_withWdata (s : State) (op : BusOp) (w : Word) (cells : List (Addr × Byte)) :
    s.store (opWithWdata op w) cells = s.store op cells := by
  cases op <;> rfl

theorem State.takes_store (s : State) (op : BusOp) (cells : List (Addr × Byte)) (a : Addr) :
    (s.store op cells).takes op a = s.takes op a := by
  cases op <;> rfl

theorem State.store_store (s : State) (op : BusOp) (cells cells' : List (Addr × Byte)) :
    (s.store op cells).store op cells' = s.store op (cells ++ cells') := by
  cases op <;> simp [State.store, opSpace, Memory.writeAll]

/-- A bus cycle's write, with the bytes its row stores. -/
theorem State.effect_store {s : State} {r : Request} {row : Row} {w : Word} (hrow : r.row = some row)
    (hw : opWdata r.op = some w) (hr : row.Allows r.addr)
    (h : ∀ p ∈ row.addrs r.addr, s.takes r.op p = true) :
    s.effect r = .next (s.store r.op (row.cells r.addr w)) := by
  rw [State.effect_of_row hrow, exec_row_store hw hr h]

/-- The first cycle of a write of an odd-address word stores its low byte (R53, R154). -/
theorem State.effect_firstHalf {s : State} {a : Addr} {op : BusOp} {v : Word} (hv : opWdata op = some v)
    (ha : a.getLsbD 0 = true) (hn : a ≠ 0xFFFFF) (h : s.takes op a = true) (d : DatumId) :
    s.effect ⟨a, false, some d, opWithWdata op (joinBytes (lowByte v) 0)⟩ =
      .next (s.store op [(a, lowByte v)]) := by
  rw [State.effect_store (row := .wOdd1) (by simp only [Request.row, ha]) (opWdata_withWdata hv _)
    (fun _ => hn) (by simpa [Row.addrs, State.takes_withWdata] using h), State.store_withWdata]
  simp [Row.cells]

/-- The second cycle stores its high byte (R53, R155). -/
theorem State.effect_secondHalf {s : State} {a : Addr} {op : BusOp} {v : Word}
    (hv : opWdata op = some v) (ha : a.getLsbD 0 = true) (h : s.takes op (a + 1) = true) (d : DatumId) :
    s.effect ⟨a + 1, true, some d, opWithWdata op (joinBytes 0 (highByte v))⟩ =
      .next (s.store op [(a + 1, highByte v)]) := by
  rw [State.effect_store (row := .wOdd2) (by simp only [Request.row, succ_even ha])
    (opWdata_withWdata hv _) nofun (by simpa [Row.addrs, State.takes_withWdata] using h),
    State.store_withWdata]
  simp [Row.cells]

/-- `MemWrite` and `IOWrite` of a word: both bytes, at an even or an odd address (R53). -/
theorem State.access_write_word {s : State} {a : Addr} {op : BusOp} {v : Word}
    (hv : opWdata op = some v) (hn : a ≠ 0xFFFFF) (h0 : s.takes op a = true)
    (h1 : s.takes op (a + 1) = true) (d : DatumId) :
    s.access ⟨a, true, op, d⟩ = .next (s.store op [(a, lowByte v), (a + 1, highByte v)]) := by
  cases ha : a.getLsbD 0 with
  | false =>
    rw [State.access_of_requests (requests_wordEven ha), State.effects_one,
      State.effect_store (row := .wEven) (by simp only [Request.row, ha]) hv nofun
        (by simpa [Row.addrs] using ⟨h0, h1⟩)]
    rfl
  | true =>
    rw [State.access_of_requests (requests_wordOdd ha hn), State.effects, hv]
    simp only [Option.getD_some]
    rw [State.effect_firstHalf hv ha hn h0]
    simp only [Out.andThen]
    rw [State.effects_one, State.effect_secondHalf hv ha (by rwa [State.takes_store]),
      State.store_store]
    rfl

/-- `MemWrite` and `IOWrite` of a byte (R53). -/
theorem State.access_write_byte {s : State} {a : Addr} {op : BusOp} {v : Word}
    (hv : opWdata op = some v) (h : s.takes op a = true) (d : DatumId) :
    s.access ⟨a, false, op, d⟩ = .next (s.store op [(a, lowByte v)]) := by
  cases ha : a.getLsbD 0 with
  | false =>
    rw [State.access_of_requests (requests_byteEven ha), State.effects_one,
      State.effect_store (row := .bEven) (by simp only [Request.row, ha]) (opWdata_withWdata hv _) nofun
        (by simpa [Row.addrs, State.takes_withWdata] using h), State.store_withWdata, hv]
    simp [Row.cells]
  | true =>
    rw [State.access_of_requests (requests_byteOdd ha), State.effects_one,
      State.effect_store (row := .bOdd) (by simp only [Request.row, ha]) (opWdata_withWdata hv _) nofun
        (by simpa [Row.addrs, State.takes_withWdata] using h), State.store_withWdata, hv]
    simp [Row.cells]

/-- A data read, in `Effect`, of bytes that exist (R53). -/
theorem State.effect_read {s : State} {r : Request} {row : Row} (hrow : r.row = some row)
    (hw : opWdata r.op = none) (hp : opPurpose r.op = .data) (hr : row.Allows r.addr)
    (h : ∀ p ∈ row.addrs r.addr, s.reachable r.op p = true) :
    s.effect r = .next (s.delivered row r.op r.addr r.datum) := by
  have hall : ((s.rowBytes row r.op r.addr).all fun q => s.reachable r.op q.addr) = true := by
    simpa [State.rowBytes] using h
  rw [State.effect_of_row hrow, exec_row_read hw hr, State.busRead, if_pos hall, hp]
  rfl

/-- `MemRead` and `IORead` of a word: the byte at its address is the low one, at an even or an odd address,
and nothing is stored (R43, R53). -/
theorem State.access_read_word {s : State} {a : Addr} {op : BusOp} (hw : opWdata op = none)
    (hp : opPurpose op = .data) (hn : a ≠ 0xFFFFF) (h0 : s.reachable op a = true)
    (h1 : s.reachable op (a + 1) = true) (d : DatumId) :
    ∃ t, s.access ⟨a, true, op, d⟩ = .next t ∧
      t.received = .word (joinBytes (s.busByte op (a + 1)) (s.busByte op a)) ∧
      t.mem = s.mem ∧ t.io = s.io := by
  cases ha : a.getLsbD 0 with
  | false =>
    refine ⟨s.delivered .wEven op a 0, ?_, rfl, rfl, rfl⟩
    rw [State.access_of_requests (requests_wordEven ha), State.effects_one]
    exact State.effect_read (row := .wEven) (by simp only [Request.row, ha]) hw hp nofun
      (by simpa [Row.addrs] using ⟨h0, h1⟩)
  | true =>
    have first : s.effect ⟨a, false, some d, op⟩ = .next (s.delivered .wOdd1 op a d) :=
      State.effect_read (row := .wOdd1) (by simp only [Request.row, ha]) hw hp (fun _ => hn)
        (by simpa [Row.addrs] using h0)
    have second : (s.delivered .wOdd1 op a d).effect ⟨a + 1, true, some d, op⟩ =
        .next ((s.delivered .wOdd1 op a d).delivered .wOdd2 op (a + 1) d) :=
      State.effect_read (row := .wOdd2) (by simp only [Request.row, succ_even ha]) hw hp nofun
        (by simpa [Row.addrs] using h1)
    refine ⟨(s.delivered .wOdd1 op a d).delivered .wOdd2 op (a + 1) d, ?_, ?_, by simp, by simp⟩
    · rw [State.access_of_requests (requests_wordOdd ha hn), State.effects, opWithWdata_of_read hw,
        opWithWdata_of_read hw, first]
      simp only [Out.andThen]
      rw [State.effects_one, second]
    · refine congrArg (fun b => Received.word (joinBytes _ b)) ?_
      exact State.lowOf_lowHalf _ d (s.busByte op a)

/-- `MemRead` and `IORead` of a byte (R53). -/
theorem State.access_read_byte {s : State} {a : Addr} {op : BusOp} (hw : opWdata op = none)
    (hp : opPurpose op = .data) (h : s.reachable op a = true) (d : DatumId) :
    ∃ t, s.access ⟨a, false, op, d⟩ = .next t ∧ t.received = .byte (s.busByte op a) ∧
      t.mem = s.mem ∧ t.io = s.io := by
  cases ha : a.getLsbD 0 with
  | false =>
    refine ⟨s.delivered .bEven op a 0, ?_, rfl, rfl, rfl⟩
    rw [State.access_of_requests (requests_byteEven ha), State.effects_one, opWithWdata_of_read hw]
    exact State.effect_read (row := .bEven) (by simp only [Request.row, ha]) hw hp nofun
      (by simpa [Row.addrs] using h)
  | true =>
    refine ⟨s.delivered .bOdd op a 0, ?_, rfl, rfl, rfl⟩
    rw [State.access_of_requests (requests_byteOdd ha), State.effects_one, opWithWdata_of_read hw]
    exact State.effect_read (row := .bOdd) (by simp only [Request.row, ha]) hw hp nofun
      (by simpa [Row.addrs] using h)

end Machine

end Sys2Proof
end

section
/-!
PROOFS. Whole accesses: the rows they select, byte order, reading back, the torn word, and FFFFFH.
-/

namespace Sys2Proof

/-! ### FFFFFH -/

theorem toNat_succ_of_ne_top {a : Addr} (h : a ≠ 0xFFFFF) : (a + 1).toNat = a.toNat + 1 := by
  have hne : a.toNat ≠ 0xFFFFF := fun e => h (BitVec.eq_of_toNat_eq e)
  have hlt := a.isLt
  rw [BitVec.toNat_add]
  change (a.toNat + 1) % 2 ^ 20 = a.toNat + 1
  omega

theorem Request.halfOfTopWord_iff (r : Request) :
    r.halfOfTopWord = true ↔ r.half.isSome = true ∧ r.addr = 0xFFFFF ∧ r.bhe = false := by
  simp [Request.halfOfTopWord, and_assoc]

theorem requests_top (op : BusOp) (d : DatumId) : Access.requests ⟨0xFFFFF, true, op, d⟩ = none := by
  simp [Access.requests]

/-- Only the word at FFFFFH has no requests (R60). -/
theorem Access.requests_eq_none_iff (x : Access) :
    x.requests = none ↔ x.wide = true ∧ x.addr = 0xFFFFF := by
  obtain ⟨a, wide, op, d⟩ := x
  cases wide with
  | false =>
    cases ha : a.getLsbD 0 with
    | false => rw [requests_byteEven ha]; simp
    | true => rw [requests_byteOdd ha]; simp
  | true =>
    by_cases htop : a = 0xFFFFF
    · subst htop; exact ⟨fun _ => ⟨rfl, rfl⟩, fun _ => requests_top op d⟩
    · cases ha : a.getLsbD 0 with
      | false => rw [requests_wordEven ha]; exact ⟨nofun, fun h => absurd h.2 htop⟩
      | true => rw [requests_wordOdd ha htop]; exact ⟨nofun, fun h => absurd h.2 htop⟩

namespace Machine

/-! ### What the cycles of an access keep and carry -/

/-- Replacing an operation's write data keeps its space, its segment and its purpose, and a read. -/
theorem sameKind_withWdata (op : BusOp) (w : Word) :
    opSpace (opWithWdata op w) = opSpace op ∧ opSeg (opWithWdata op w) = opSeg op ∧
      opPurpose (opWithWdata op w) = opPurpose op ∧ (opWdata op = none → opWithWdata op w = op) :=
  ⟨opSpace_withWdata op w, opSeg_withWdata op w, opPurpose_withWdata op w,
    fun h => opWithWdata_of_read h w⟩

/-- A byte of the datum on the low lane. -/
theorem carries_low (op : BusOp) (part : Word → Byte) (v : Word) (hv : opWdata op = some v) :
    ∃ w, opWdata (opWithWdata op (joinBytes 0 (part ((opWdata op).getD 0)))) = some w ∧
      lowByte w = part v := by
  rw [hv]
  exact ⟨_, opWdata_withWdata hv _, lowByte_joinBytes _ _⟩

/-- A byte of the datum on the high lane. -/
theorem carries_high (op : BusOp) (part : Word → Byte) (v : Word) (hv : opWdata op = some v) :
    ∃ w, opWdata (opWithWdata op (joinBytes (part ((opWdata op).getD 0)) 0)) = some w ∧
      highByte w = part v := by
  rw [hv]
  exact ⟨_, opWdata_withWdata hv _, highByte_joinBytes _ _⟩

/-- Settles O18: the requests of an access by width and bit 0, and the row of each. -/
theorem accessesSelectTheirRows : Obligations.AccessesSelectTheirRows := by
  intro a op d sameKind carries
  refine ⟨fun ha => ⟨requests_wordEven ha, ?wEven, ⟨_, requests_byteEven ha, ?bEven,
      sameKind_withWdata op _, carries_low op lowByte⟩⟩,
    fun ha => ⟨⟨_, requests_byteOdd ha, ?bOdd, sameKind_withWdata op _, carries_high op lowByte⟩,
      fun hn => ⟨succ_even ha, _, _, requests_wordOdd ha hn, ?wOdd1, ?wOdd2,
        sameKind_withWdata op _, carries_high op lowByte, sameKind_withWdata op _,
        carries_low op highByte⟩⟩⟩
  case wOdd2 => simp only [Request.instr_eq, succ_even ha]
  all_goals simp only [Request.instr_eq, ha]

/-! ### Byte order and reading back -/

/-- Settles O19: the word and the bytes that the three reads receive. -/
theorem memoryIsLittleEndian : Obligations.MemoryIsLittleEndian := by
  intro s a seg d hn
  obtain ⟨t, ht, hword, -⟩ := State.access_read_word (s := s) (op := .memRead seg) rfl rfl hn rfl rfl d
  obtain ⟨t0, ht0, hbyte0, -⟩ := State.access_read_byte (s := s) (a := a) (op := .memRead seg) rfl rfl rfl d
  obtain ⟨t1, ht1, hbyte1, -⟩ :=
    State.access_read_byte (s := s) (a := a + 1) (op := .memRead seg) rfl rfl rfl d
  refine ⟨t, t0, t1, _, ht, hword, ht0, ?_, ht1, ?_, lowByte_joinBytes _ _, highByte_joinBytes _ _⟩
  · rw [hbyte0, lowByte_joinBytes]
  · rw [hbyte1, highByte_joinBytes]

/-- Two stores at an address and the next: each byte reads back, and every other reads as before. -/
theorem Memory.read_writeAll_word {m : Memory} (hm : m.wf = true) (a : Addr) (v w : Byte) :
    (m.writeAll [(a, v), (a + 1, w)]).read a.toNat = v ∧
    (m.writeAll [(a, v), (a + 1, w)]).read (a + 1).toNat = w ∧
    ∀ b, b ≠ a.toNat → b ≠ (a + 1).toNat →
      (m.writeAll [(a, v), (a + 1, w)]).read b = m.read b := by
  have hm' := Memory.write_wf a.toNat v hm
  refine ⟨?_, Memory.read_write_same hm' _ _, fun b h0 h1 => ?_⟩
  · exact (Memory.read_write_other hm' w (toNat_ne_succ a)).trans (Memory.read_write_same hm _ _)
  · exact (Memory.read_write_other hm' w h1).trans (Memory.read_write_other hm v h0)

theorem Memory.read_writeAll_byte {m : Memory} (hm : m.wf = true) (a : Addr) (v : Byte) :
    (m.writeAll [(a, v)]).read a.toNat = v ∧
    ∀ b, b ≠ a.toNat → (m.writeAll [(a, v)]).read b = m.read b :=
  ⟨Memory.read_write_same hm _ _, fun _ hb => Memory.read_write_other hm v hb⟩

theorem State.takes_memWrite {s : State} {seg : SegReg} {w : Word} {a : Addr} (h : s.queued a = false) :
    s.takes (.memWrite seg w) a = true := by
  simp only [State.takes, opSpace, h]
  rfl

/-- After a write a port with storage puts the byte stored on the bus (R49). -/
theorem State.busByte_store_port {s : State} {a : Addr} (h : s.params.storagePort a.toNat = true)
    (w : Word) (cells : List (Addr × Byte)) :
    (s.store (.ioWrite w) cells).busByte .ioRead a = (s.io.writeAll cells).read a.toNat :=
  if_pos h

/-- Settles O20: the state after a write is a store, of which a read receives the bytes stored. -/
theorem wordReadsBackWhatWasWritten : Obligations.WordReadsBackWhatWasWritten := by
  refine ⟨fun s a seg seg' v d hm hq => ⟨fun hn hq' => ?memWord, ?memByte⟩,
    fun s a v d hi hport hstore => ⟨fun hport' hstore' => ?ioWord, ?ioByte⟩⟩
  case memWord =>
    obtain ⟨hlow, hhigh, hother⟩ := Memory.read_writeAll_word hm a (lowByte v) (highByte v)
    have hwrite := State.access_write_word (s := s) (op := .memWrite seg v) rfl hn
      (State.takes_memWrite hq) (State.takes_memWrite hq') d
    obtain ⟨u, hu, hword, hmem, -⟩ := State.access_read_word (s := s.store (.memWrite seg v) _)
      (op := .memRead seg') rfl rfl hn rfl rfl d
    refine ⟨_, u, hwrite, hu, hword.trans (congrArg Received.word ?_), hmem, rfl, hother⟩
    exact (congrArg₂ joinBytes hhigh hlow).trans (joinBytes_split v)
  case memByte =>
    obtain ⟨hlow, hother⟩ := Memory.read_writeAll_byte hm a (lowByte v)
    have hwrite := State.access_write_byte (s := s) (a := a) (op := .memWrite seg v) rfl
      (State.takes_memWrite hq) d
    obtain ⟨u, hu, hbyte, hmem, -⟩ := State.access_read_byte (s := s.store (.memWrite seg v) _)
      (a := a) (op := .memRead seg') rfl rfl rfl d
    exact ⟨_, u, hwrite, hu, hbyte.trans (congrArg Received.byte hlow), hmem, rfl, hother⟩
  case ioWord =>
    obtain ⟨hlow, hhigh, hother⟩ := Memory.read_writeAll_word hi a (lowByte v) (highByte v)
    have hn : a ≠ 0xFFFFF := by
      rintro rfl
      exact absurd (hport.trans_le s.params.portCount_le) (by decide)
    have hwrite := State.access_write_word (s := s) (op := .ioWrite v) rfl hn
      (decide_eq_true hport) (decide_eq_true hport') d
    obtain ⟨u, hu, hword, -, hio⟩ := State.access_read_word (s := s.store (.ioWrite v) _)
      (op := .ioRead) rfl rfl hn (decide_eq_true hport) (decide_eq_true hport') d
    refine ⟨_, u, hwrite, hu, hword.trans (congrArg Received.word ?_), hio, rfl, hother⟩
    rw [State.busByte_store_port hstore, State.busByte_store_port hstore']
    exact (congrArg₂ joinBytes hhigh hlow).trans (joinBytes_split v)
  case ioByte =>
    obtain ⟨hlow, hother⟩ := Memory.read_writeAll_byte hi a (lowByte v)
    have hwrite := State.access_write_byte (s := s) (a := a) (op := .ioWrite v) rfl
      (decide_eq_true hport) d
    obtain ⟨u, hu, hbyte, -, hio⟩ := State.access_read_byte (s := s.store (.ioWrite v) _)
      (a := a) (op := .ioRead) rfl rfl (decide_eq_true hport) d
    refine ⟨_, u, hwrite, hu, hbyte.trans (congrArg Received.byte ?_), hio, rfl, hother⟩
    rw [State.busByte_store_port hstore]
    exact hlow

/-- Settles O21: the stores of the two cycles, one after the other. -/
theorem oddWordIsWrittenInHalves : Obligations.OddWordIsWrittenInHalves := by
  intro s a seg v d ha hn hm hq hq'
  have hv : opWdata (.memWrite seg v) = some v := rfl
  have first := State.effect_firstHalf (s := s) hv ha hn (State.takes_memWrite hq) d
  have second := State.effect_secondHalf (s := s.store (.memWrite seg v) [(a, lowByte v)]) hv ha
    (by rw [State.takes_store]; exact State.takes_memWrite hq') d
  obtain ⟨hlow, hother⟩ := Memory.read_writeAll_byte hm a (lowByte v)
  obtain ⟨hlow', hhigh', -⟩ := Memory.read_writeAll_word hm a (lowByte v) (highByte v)
  exact ⟨_, _, _, _, requests_wordOdd ha hn, first, second, hlow, hother _ (toNat_ne_succ a).symm,
    hlow', hhigh'⟩

/-! ### The word at FFFFFH -/

/-- A request that is taken from EU is refused for what is objected to it. -/
theorem State.startOrIdle_refused_iff {s : State} {e : EuIn} {r : Request} (h : s.offered e = some r)
    (x : Refusal) : s.startOrIdle e = .refused x ↔ s.objection r = some x := by
  cases hobj : s.objection r with
  | none => rw [State.startOrIdle_of_admitted h hobj]; simp
  | some y => rw [State.startOrIdle_of_objection h hobj]; simp

theorem State.halfOfTopWord_of_objection {s : State} {r : Request}
    (h : s.objection r = some .wordAtTopOfMemory) : r.halfOfTopWord = true := by
  by_contra htop
  simp only [State.objection, if_neg htop] at h
  split_ifs at h <;> cases h

theorem State.beginAccess_some {s : State} {e : EuIn} {x : Access} (h : e.access = some x) :
    (∀ rs, x.requests = some rs → s.beginAccess e = .next { s with pending := s.pending ++ rs }) ∧
    (x.requests = none → s.beginAccess e = .refused .wordAtTopOfMemory) := by
  unfold State.beginAccess
  rw [h]
  exact ⟨fun rs hrs => by simp only [hrs], fun hno => by simp only [hno]⟩

/-- Settles O14: the access at FFFFFH has no requests, and so is refused where it is begun. -/
theorem wordAtTopOfMemoryIsRefused : Obligations.WordAtTopOfMemoryIsRefused := by
  refine ⟨fun s op d => ⟨?whole, exec_wOdd1_top _ s⟩, fun s e r hr h => ?offered,
    fun a op d ha hn => ⟨toNat_succ_of_ne_top hn, _, _, requests_wordOdd ha hn⟩,
    fun s e h => State.beginAccess_none h, fun s e x hx => ?begins⟩
  case whole => rw [State.access, requests_top]
  case offered =>
    have hobj := (State.startOrIdle_refused_iff hr _).mp h
    obtain ⟨hhalf, haddr, hbhe⟩ :=
      r.halfOfTopWord_iff.mp (State.halfOfTopWord_of_objection hobj)
    exact ⟨haddr, hbhe, hhalf⟩
  case begins =>
    obtain ⟨hsome, hnone⟩ := State.beginAccess_some (s := s) hx
    refine ⟨hsome, x.requests_eq_none_iff, fun hwide htop => ?_⟩
    have hno := x.requests_eq_none_iff.mpr ⟨hwide, htop⟩
    refine ⟨hnone hno, fun hturn hstrap hreset hwait he => ?_⟩
    subst he
    rw [step_eq_around hturn hstrap hreset fun v _ => rfl, State.around,
      State.waitStep_of_sampled hwait]
    simp only [Out.andThen]
    rw [(State.beginAccess_some hx).2 hno]

end Machine

end Sys2Proof
end

section
/-!
PROOFS. Which requests the bus takes, which it refuses and why; the first cycle after RESET; and the strap,
for which nothing else refuses.
-/

namespace Sys2Proof

/-! ### The conditions on a request, read off its fields -/

theorem Request.isResetFetch_iff (r : Request) :
    r.isResetFetch = true ↔ r.op = .fetch ∧ r.addr = 0xFFFF0 := by
  simp [Request.isResetFetch]

theorem Request.fetchKindOk_iff (r : Request) (k : FetchKind) :
    r.fetchKindOk k = true ↔ (r.op = .fetch → k = .anyRow ∨
      (r.bhe = false ∧ (r.addr.getLsbD 0 = false ∨ r.half = none))) := by
  unfold Request.fetchKindOk
  cases r.op <;> cases k <;> simp

/-- A half of a word at FFFFFH, where the code is one of R73. -/
theorem Request.halfOfTopWord_eq_false_iff {r : Request}
    (hcode : r.bhe = false ∨ r.addr.getLsbD 0 = false) :
    r.halfOfTopWord = false ↔ r.half = none ∨ r.addr ≠ 0xFFFFF := by
  rw [← Bool.not_eq_true, Request.halfOfTopWord_iff]
  constructor
  · intro hno
    by_contra hboth
    obtain ⟨hhalf, haddr⟩ := not_or.mp hboth
    have haddr : r.addr = 0xFFFFF := not_not.mp haddr
    have hodd : r.addr.getLsbD 0 = true := by rw [haddr]; decide
    exact hno ⟨Option.isSome_iff_ne_none.mpr hhalf, haddr, hcode.resolve_right (by rw [hodd]; decide)⟩
  · rintro (hhalf | haddr) ⟨hsome, htop, -⟩
    · rw [hhalf] at hsome; cases hsome
    · exact haddr htop

namespace Machine

theorem State.reachable_iff (s : State) (op : BusOp) (a : Addr) :
    s.reachable op a = true ↔ ∀ w, op = .ioRead ∨ op = .ioWrite w → a.toNat < s.params.portCount := by
  unfold State.reachable
  cases op <;> simp [opSpace]

/-- What a request must meet to be taken: `Admissible` (R101), and what the spec says of every request EU
offers (R212, R158, R60, R41). -/
def State.Admitted (s : State) (r : Request) : Prop :=
  (r.bhe = false ∨ r.addr.getLsbD 0 = false) ∧
  (s.waiting = false ∨ r.op = .fetch) ∧
  (s.firstFetchDue = false ∨ (r.op = .fetch ∧ r.addr = 0xFFFF0)) ∧
  (r.op = .fetch → s.params.fetchKind = .anyRow ∨
    (r.bhe = false ∧ (r.addr.getLsbD 0 = false ∨ r.half = none))) ∧
  (r.half = none ∨ r.addr ≠ 0xFFFFF) ∧
  (∀ w, r.op = .ioRead ∨ r.op = .ioWrite w → r.addr.toNat < s.params.portCount)

theorem State.objection_none_iff_admitted (s : State) (r : Request) :
    s.objection r = none ↔ s.Admitted r := by
  rw [State.objection_none_iff, State.Admitted, opPurpose_fetch_iff, Request.isResetFetch_iff,
    Request.fetchKindOk_iff, State.reachable_iff]
  refine and_congr_right fun hcode => ?_
  rw [Request.halfOfTopWord_eq_false_iff hcode]

/-! ### The code 1 1 -/

theorem State.objection_noByteSelected_iff (s : State) (r : Request) :
    s.objection r = some .noByteSelected ↔ r.bhe = true ∧ r.addr.getLsbD 0 = true := by
  constructor
  · intro h
    by_contra hcode
    have hno : ¬ (r.addr.getLsbD 0 && r.bhe) = true := by
      rw [Bool.and_eq_true]; exact fun hboth => hcode hboth.symm
    rw [State.objection, if_neg hno] at h
    split_ifs at h <;> cases h
  · rintro ⟨hb, ha⟩
    exact if_pos (by rw [ha, hb]; rfl)

/-- Settles O32: it is the first objection to a request; no lane of it takes part, and it has no row. -/
theorem noByteSelectedIsRefused : Obligations.NoByteSelectedIsRefused := by
  refine ⟨fun s e r hr => ?_, fun r => ?_, fun s r hb ha => ?_⟩
  · rw [State.startOrIdle_refused_iff hr, State.objection_noByteSelected_iff]
  · simp only [Request.low, Request.high, Bool.not_eq_false']
    exact and_comm
  · exact State.effect_of_no_row ((Request.row_none_iff r).mpr ⟨hb, ha⟩) s

/-! ### What is taken -/

theorem State.offered_of_pending {s : State} {e : EuIn} {r : Request} {rs : List Request}
    (hgo : e.goOn = true) (hp : s.pending = r :: rs) : s.offered e = some r := by
  simp only [State.offered, hgo, hp]

/-- Where EU goes on with nothing, or has nothing left, it offers its own request and leaves what is
left. -/
theorem State.offered_own {s : State} {e : EuIn} (h : e.goOn = false ∨ s.pending = []) :
    s.offered e = e.req ∧ s.pendingAfter e = s.pending := by
  rcases h with hgo | hp
  · simp [State.offered, State.pendingAfter, hgo]
  · refine ⟨State.offered_of_nil hp e, ?_⟩
    simp [State.pendingAfter, hp]

/-- In a wait a request that is no fetch is refused as such, whatever else is amiss with it (R175). -/
theorem State.objection_of_wait {s : State} {r : Request}
    (hcode : r.bhe = false ∨ r.addr.getLsbD 0 = false) (hwait : s.waiting = true) (hop : r.op ≠ .fetch) :
    s.objection r = some .dataRequestDuringWait := by
  have hno : ¬ (r.addr.getLsbD 0 && r.bhe) = true := by
    rcases hcode with h | h <;> simp only [h] <;> simp
  have hdata : (s.waiting && opPurpose r.op != .fetch) = true := by
    simp [hwait, opPurpose_fetch_iff, hop]
  rw [State.objection, if_neg hno, if_pos hdata]

/-- Settles O33: a request is taken exactly if nothing is objected to it, which is to be `Admitted`. -/
theorem onlyFetchesStartWhileWaiting : Obligations.OnlyFetchesStartWhileWaiting := by
  refine ⟨fun s e => ⟨fun r rs hgo hp => ?goesOn, fun hown => ?own,
    fun r x hr hx => State.startOrIdle_of_objection hr hx, fun r hr => ?admitted⟩,
    fun s e r hwait hr hcode => ⟨fun hop => ?data, fun hop hfirst hkind htop => ?fetch⟩⟩
  case goesOn =>
    have hr := State.offered_of_pending hgo hp
    refine ⟨hr, fun hobj => ?_⟩
    rw [State.startOrIdle_of_admitted hr hobj, State.pendingAfter, if_pos hgo, hp]
    rfl
  case own =>
    obtain ⟨hreq, hleft⟩ := State.offered_own hown
    refine ⟨hreq, fun hnone => State.startOrIdle_of_none (hreq.trans hnone), fun r hr hobj => ?_⟩
    rw [State.startOrIdle_of_admitted (hreq.trans hr) hobj, hleft]
  case admitted =>
    refine ⟨fun h => State.startOrIdle_of_admitted hr ((s.objection_none_iff_admitted r).mpr h),
      fun t ht => ?_⟩
    rcases State.startOrIdle_next ht with ⟨hno, -⟩ | ⟨r', hr', hobj, -⟩
    · rw [hr] at hno; cases hno
    · rw [hr] at hr'
      cases hr'
      exact (s.objection_none_iff_admitted r).mp hobj
  case data => exact State.startOrIdle_of_objection hr (State.objection_of_wait hcode hwait hop)
  case fetch =>
    refine State.startOrIdle_of_admitted hr ((s.objection_none_iff_admitted r).mpr ?_)
    refine ⟨hcode, .inr hop, hfirst.imp_right fun h => ⟨hop, h⟩, (r.fetchKindOk_iff _).mp hkind, htop,
      fun w hio => ?_⟩
    rw [hop] at hio
    rcases hio with h | h <;> cases h

/-! ### The first cycle after RESET -/

/-- While the first fetch is due, a cycle that a T state starts is that fetch (R212). -/
theorem tState_starts_resetFetch {s t : State} {r : Request} (hturn : s.turn = .bus)
    (hreset : s.input.env.reset = false) (hdue : s.firstFetchDue = true) (h : step s = .next t)
    (hbus : s.bus.t = .ti ∨ s.bus.t = .t4) (ht1 : t.bus = .cycle .t1 r) :
    r.isResetFetch = true ∧ t.firstFetchDue = false := by
  obtain ⟨s1, v, w, -, hv, -, hw, -, rfl⟩ := tState_next hturn hreset h
  rcases State.busStep_cases hw with ⟨u, hu, ht⟩ | ⟨ph, r', hb, hph, rfl⟩
  · have hudue : u.firstFetchDue = true :=
      hu.frame.firstFetchDue.trans (hv.firstFetchDue.trans hdue)
    rcases State.startOrIdle_next ht with ⟨-, rfl⟩ | ⟨r', -, hobj, rfl⟩
    · simp at ht1
    · have hr : r' = r := by simpa using ht1
      subst hr
      obtain ⟨-, -, hfirst, -⟩ := State.objection_none hobj
      exact ⟨hfirst.resolve_left (by rw [hudue]; decide), by simp⟩
  · rw [← hv.bus, hb] at hbus
    cases ph with
    | t4 => exact absurd rfl hph
    | t1 | t2 | t3 | tw => simp [Bus.t] at hbus

/-- Settles O34: a T state starts no other cycle; RESET starts none, and EU's moves leave the bus. -/
theorem firstCycleAfterResetIsTheFetch : Obligations.FirstCycleAfterResetIsTheFetch := by
  refine ⟨fun s t r hdue h hbus ht1 => ?_, fun s e hdue hwait hr => ?_⟩
  · by_cases hturn : s.turn = .bus
    · cases hreset : s.input.env.reset with
      | true =>
        rw [step_of_reset_next hturn hreset h] at ht1
        simp at ht1
      | false =>
        obtain ⟨hfetch, hover⟩ := tState_starts_resetFetch hturn hreset hdue h hbus ht1
        obtain ⟨hop, haddr⟩ := r.isResetFetch_iff.mp hfetch
        exact ⟨hop, haddr, by rw [hop]; rfl, hover⟩
    · rw [← (step_of_eu_frame hturn h).bus, ht1] at hbus
      rcases hbus with hb | hb <;> cases hb
  · refine State.startOrIdle_of_admitted hr ((s.objection_none_iff_admitted _).mpr ?_)
    exact ⟨.inl rfl, .inl hwait, .inr ⟨rfl, rfl⟩, fun _ => .inr ⟨rfl, .inr rfl⟩, .inl rfl,
      fun w hio => by rcases hio with h | h <;> cases h⟩

/-! ### The strap -/

/-- The outcome is not a refusal for the mode. -/
def Out.KeepsMode (o : Out) : Prop := o ≠ .refused .modeChanged

theorem Out.KeepsMode.andThen {o : Out} {f : State → Out} (ho : o.KeepsMode)
    (hf : ∀ t, (f t).KeepsMode) : (o.andThen f).KeepsMode := by
  cases o with
  | next t => exact hf t
  | fault x => exact nofun
  | refused x => exact ho

theorem State.busWrite_keepsMode (s : State) (op : BusOp) (cells : List (Addr × Byte)) :
    (s.busWrite op cells).KeepsMode := by
  unfold State.busWrite
  split
  · split <;> exact nofun
  · split <;> exact nofun
  · exact nofun

theorem State.busRead_keepsMode (s : State) (op : BusOp) (bytes : List QByte) (r : Word)
    (d : Delivery) : (s.busRead op bytes r d).KeepsMode := by
  unfold State.busRead
  split
  · split
    · split <;> exact nofun
    · exact nofun
    · exact nofun
  · exact nofun

theorem Transfers.keepsMode {s : State} {op : BusOp} {o : Out} (h : Transfers s op o) :
    o.KeepsMode := by
  cases h with
  | write w cells => exact s.busWrite_keepsMode op cells
  | read bytes r d => exact s.busRead_keepsMode op bytes r d
  | topWord => exact nofun

theorem exec_keepsMode (i : Instr) (s : State) : Out.KeepsMode (exec i s) := by
  cases i with
  | xferWEven a op => exact (execXferWEven_transfers a op s).keepsMode
  | xferBEven a op => exact (execXferBEven_transfers a op s).keepsMode
  | xferBOdd a op => exact (execXferBOdd_transfers a op s).keepsMode
  | xferWOdd1 a op => exact (execXferWOdd1_transfers a op s).keepsMode
  | xferWOdd2 a op => exact (execXferWOdd2_transfers a op s).keepsMode
  | wait => exact nofun

theorem State.effect_keepsMode (s : State) (r : Request) : (s.effect r).KeepsMode := by
  unfold State.effect
  split
  · exact exec_keepsMode _ s
  · exact nofun

theorem State.objection_ne_modeChanged (s : State) (r : Request) :
    s.objection r ≠ some .modeChanged := by
  unfold State.objection
  split_ifs <;> exact nofun

theorem State.startOrIdle_keepsMode (s : State) (e : EuIn) : (s.startOrIdle e).KeepsMode := by
  cases hr : s.offered e with
  | none => rw [State.startOrIdle_of_none hr]; exact nofun
  | some r => exact mt (State.startOrIdle_refused_iff hr _).mp (s.objection_ne_modeChanged r)

theorem State.waitStep_keepsMode (s : State) (i : TInput) : (s.waitStep i).KeepsMode := by
  unfold State.waitStep
  split_ifs <;> exact nofun

theorem State.beginAccess_keepsMode (s : State) (e : EuIn) : (s.beginAccess e).KeepsMode := by
  unfold State.beginAccess
  split
  · exact nofun
  · split <;> exact nofun

theorem State.busStep_keepsMode (s : State) (i : TInput) : (s.busStep i).KeepsMode := by
  unfold State.busStep
  split
  · exact s.startOrIdle_keepsMode i.eu
  case h_6 r _ => exact (s.effect_keepsMode r).andThen fun t => t.startOrIdle_keepsMode i.eu
  all_goals exact nofun

/-- A T state is refused for its mode exactly where the strap is not at the mode's level (R112). -/
theorem step_modeChanged_iff {s : State} (hturn : s.turn = .bus) :
    step s = .refused .modeChanged ↔ s.input.env.mnmx ≠ modeLevel s.params.mode := by
  rw [step_of_bus hturn, State.tStepOn]
  split_ifs with hstrap hreset
  · simpa using hstrap
  · have hsame : s.input.env.mnmx = modeLevel s.params.mode := by simpa using hstrap
    exact ⟨nofun, fun hne => absurd hsame hne⟩
  · have hsame : s.input.env.mnmx = modeLevel s.params.mode := by simpa using hstrap
    refine ⟨fun h => absurd h ?_, fun hne => absurd hsame hne⟩
    exact (State.waitStep_keepsMode _ _).andThen fun s1 =>
      (s1.beginAccess_keepsMode _).andThen fun s2 =>
      (s2.busStep_keepsMode _).andThen fun s3 => nofun

/-- Settles O35: the levels of the two modes, and `step_modeChanged_iff`. -/
theorem modeChangeIsRefused : Obligations.ModeChangeIsRefused := by
  refine ⟨rfl, rfl, fun s hturn => ?_⟩
  rw [step_modeChanged_iff hturn]
  cases s.params.mode <;> simp [modeLevel]

end Machine

end Sys2Proof
end

section
/-!
PROOFS. RESET: what a T state with RESET high ends, what it does not see, and what becomes of the bytes of a
write it cuts short.
-/

namespace Sys2Proof.Machine

/-! ### What RESET does not see -/

/-- Of an input in which RESET is high, only the strap, RESET and NMI are seen (R211). -/
theorem step_of_reset_unseen {s : State} {i : TInput} (hturn : s.turn = .bus)
    (hreset : s.input.env.reset = true) (hi : i.env.reset = true)
    (hstrap : i.env.mnmx = s.input.env.mnmx) (hnmi : i.env.nmi = s.input.env.nmi) :
    step { s with script := i :: s.script.tail } = step s := by
  refine step_of_replaced_input hturn ?_
  simp only [State.tStepOn, hreset, hi, hstrap, State.resetStep, hnmi, if_true]

/-- Settles O37: the fields are those of `ResetStep`, by the laws of `resetStep`; the other pins are not
read. -/
theorem resetEndsTheCurrentOperation : Obligations.ResetEndsTheCurrentOperation := by
  intro s t hturn hreset h
  have unseen : (∀ b, step (s.withReady b) = step s) ∧ (∀ b, step (s.withIntr b) = step s) ∧
      ∀ b, step (s.withTest b) = step s :=
    ⟨fun _ => step_of_reset_unseen hturn hreset hreset rfl rfl,
      fun _ => step_of_reset_unseen hturn hreset hreset rfl rfl,
      fun _ => step_of_reset_unseen hturn hreset hreset rfl rfl⟩
  rw [step_of_reset_next hturn hreset h]
  simpa using unseen

/-! ### An abandoned write -/

/-- After an abandoned write each byte is as before, or one of those the write would have stored (R214). -/
theorem Memory.read_abandoned {m : Memory} (hm : m.wf = true) (n : Nat)
    (l : List (Nat × Addr × Byte)) (b : Addr) :
    (l.foldl (Memory.writeIfTaken n) m).read b.toNat = m.read b.toNat ∨
      ∃ c ∈ l, b = c.2.1 ∧ (l.foldl (Memory.writeIfTaken n) m).read b.toNat = c.2.2 := by
  induction l generalizing m with
  | nil => exact .inl rfl
  | cons c l ih =>
    have hc : (Memory.writeIfTaken n m c).wf = true := Memory.foldl_writeIfTaken_wf n [c] hm
    rcases ih hc with hsame | ⟨c', hc', hb, hval⟩
    · rw [List.foldl_cons, hsame, Memory.writeIfTaken]
      split
      · rw [Memory.read_write_addr hm]
        split
        · next hb => exact .inr ⟨c, by simp, hb, rfl⟩
        · exact .inl rfl
      · exact .inl rfl
    · exact .inr ⟨c', by simp [hc'], hb, hval⟩

/-- The bytes of a write cycle, by lanes (R53). -/
theorem Request.mem_writes {r : Request} {w : Word} (hw : opWdata r.op = some w)
    {c : Nat × Addr × Byte} (hc : c ∈ r.writes) :
    (r.low = true ∧ c.2.1 = evenOf r.addr ∧ c.2.2 = lowByte w) ∨
    (r.high = true ∧ c.2.1 = oddOf r.addr ∧ c.2.2 = highByte w) := by
  simp only [Request.writes, hw, List.mem_append] at hc
  rcases hc with hc | hc <;> split at hc
  · next hl => obtain rfl := List.mem_singleton.mp hc; exact .inl ⟨hl, rfl, rfl⟩
  · cases hc
  · next hh => obtain rfl := List.mem_singleton.mp hc; exact .inr ⟨hh, rfl, rfl⟩
  · cases hc

/-- A byte after the bytes `l` of a cycle's write were each taken or not: old, or the lane's new one. -/
theorem Memory.read_abandoned_write {m : Memory} (hm : m.wf = true) (n : Nat) {r : Request} {w : Word}
    (hw : opWdata r.op = some w) {l : List (Nat × Addr × Byte)} (hl : ∀ c ∈ l, c ∈ r.writes)
    (b : Addr) :
    (l.foldl (Memory.writeIfTaken n) m).read b.toNat = m.read b.toNat ∨
    (r.low = true ∧ b = evenOf r.addr ∧
      (l.foldl (Memory.writeIfTaken n) m).read b.toNat = lowByte w) ∨
    (r.high = true ∧ b = oddOf r.addr ∧
      (l.foldl (Memory.writeIfTaken n) m).read b.toNat = highByte w) := by
  refine (Memory.read_abandoned hm n l b).imp_right fun ⟨c, hc, hb, hval⟩ => ?_
  rcases Request.mem_writes hw (hl c hc) with ⟨hlane, ha, hv⟩ | ⟨hlane, ha, hv⟩
  · exact .inl ⟨hlane, hb.trans ha, hval.trans hv⟩
  · exact .inr ⟨hlane, hb.trans ha, hval.trans hv⟩

/-- No write is cut short where the bus idles or reads. -/
theorem State.abandonCycle_of_no_write {s : State}
    (h : s.bus = .idle ∨ ∃ ph r, s.bus = .cycle ph r ∧ opWdata r.op = none) :
    s.abandonCycle.mem = s.mem ∧ s.abandonCycle.io = s.io := by
  unfold State.abandonCycle
  rcases h with hb | ⟨ph, r, hb, hw⟩
  · rw [hb]; exact ⟨rfl, rfl⟩
  · have hnone : r.writes = [] := by simp only [Request.writes, hw]
    rw [hb]
    simp only [hnone]
    cases opSpace r.op <;> exact ⟨rfl, rfl⟩

theorem State.abandonCycle_memWrite {s : State} {ph : Phase} {r : Request} {seg : SegReg} {w : Word}
    (hbus : s.bus = .cycle ph r) (hop : r.op = .memWrite seg w) :
    s.abandonCycle.mem = r.writes.foldl (Memory.writeIfTaken s.clock) s.mem ∧
      s.abandonCycle.io = s.io := by
  unfold State.abandonCycle
  rw [hbus]
  simp only [hop, opSpace]
  exact ⟨trivial, trivial⟩

theorem State.abandonCycle_ioWrite {s : State} {ph : Phase} {r : Request} {w : Word}
    (hbus : s.bus = .cycle ph r) (hop : r.op = .ioWrite w) :
    s.abandonCycle.mem = s.mem ∧ ∃ l : List (Nat × Addr × Byte), (∀ c ∈ l, c ∈ r.writes) ∧
      s.abandonCycle.io = l.foldl (Memory.writeIfTaken s.clock) s.io := by
  unfold State.abandonCycle
  rw [hbus]
  simp only [hop, opSpace]
  exact ⟨trivial, _, fun c hc => (List.mem_filter.mp hc).1, rfl⟩

/-- Settles O38: memory and ports after RESET are those of `AbandonCycle`, or, RESET being on already, as
they were. -/
theorem resetKeepsMemoryButAbandonedBytes : Obligations.ResetKeepsMemoryButAbandonedBytes := by
  intro s t hturn hreset h hm hi
  rw [step_of_reset_next hturn hreset h]
  have hmem : (s.resetStep s.input.env).tick.mem = if s.inReset then s.mem else s.abandonCycle.mem := by
    simp
  have hio : (s.resetStep s.input.env).tick.io = if s.inReset then s.io else s.abandonCycle.io := by
    simp
  rw [hmem, hio]
  refine ⟨by simp, fun hnone => ?none, fun ph r seg w hbus hop => ?memWrite,
    fun ph r w hbus hop => ?ioWrite⟩
  case none =>
    cases hin : s.inReset with
    | true => exact ⟨rfl, rfl⟩
    | false => exact State.abandonCycle_of_no_write (hnone.resolve_left (by rw [hin]; decide))
  case memWrite =>
    cases hin : s.inReset with
    | true => exact ⟨rfl, fun b => .inl rfl⟩
    | false =>
      obtain ⟨hmem, hio⟩ := State.abandonCycle_memWrite hbus hop
      refine ⟨hio, fun b => ?_⟩
      simp only [Bool.false_eq_true, if_false, hmem]
      exact Memory.read_abandoned_write hm s.clock (by rw [hop]; rfl) (fun c hc => hc) b
  case ioWrite =>
    cases hin : s.inReset with
    | true => exact ⟨rfl, fun b => .inl rfl⟩
    | false =>
      obtain ⟨hmem, l, hl, hio⟩ := State.abandonCycle_ioWrite hbus hop
      refine ⟨hmem, fun b => ?_⟩
      simp only [Bool.false_eq_true, if_false, hio]
      exact Memory.read_abandoned_write hi s.clock (by rw [hop]; rfl) hl b

end Sys2Proof.Machine
end

section
/-!
PROOFS. Interrupt requests: how they are seen, which is answered and when, and what the response hands over
to `int_entry`.
-/

namespace Sys2Proof.Machine

/-! ### Requests -/

/-- Settles O39: by `tState_frame`. -/
theorem nmiRisesAreLatched : Obligations.NmiRisesAreLatched := by
  intro s t hturn hreset h
  have f := tState_frame hturn hreset h
  exact ⟨f.nmiPrev, by rw [f.nmiPending]; simp⟩

/-- Settles O40: by `NotWaiting`. -/
theorem intrIsTestedInTheLastClock : Obligations.IntrIsTestedInTheLastClock := by
  intro s t hturn hreset hwait h
  have n := tState_of_not_waiting hturn hreset hwait h
  refine ⟨fun hlast hdue => ⟨?_, ?_, ?_⟩, fun hno => ⟨?_, ?_⟩⟩
  · rw [n.intrAccept, hlast, hdue]; rfl
  · rw [n.turn, hdue, State.place, hlast]; rfl
  · rw [n.executing, hdue, hlast]; simp
  · rw [n.intrAccept, if_neg (by rcases hno with h | h <;> simp [h])]
  · rw [n.executing]
    rcases hno with h | h <;> simp [h]

theorem State.intrAllowed_of_masked {s : State} (h : s.regs.ifFlag = false) (intr : Bool) :
    s.intrAllowed intr = false := by
  rw [State.intrAllowed, h, Bool.and_false]

/-- EU's move makes no request of INTR. -/
theorem euMove_intrAccept {s t : State} (hturn : s.turn ≠ .bus) (h : step s = .next t)
    (hs : s.intrAccept = false) : t.intrAccept = false := by
  rw [step_of_eu hturn] at h
  rcases euStep_next h with ⟨hb, -⟩ | ⟨k, -, -, -, h⟩ | ⟨k, -, -, -, rfl⟩ | ⟨-, h⟩
  · exact absurd hb hturn
  · obtain ⟨e, resp, -, -, rfl⟩ := takeInterrupt_next h
    cases k
    · exact hs
    · rfl
  · rw [State.holdResponse_intrAccept]
    simp [hs]
  · exact (State.euAct_actFrame h).intrAccept.trans hs

/-- Settles O44: where INTR is tested, it is tested with IF. -/
theorem maskedIntrIsNeverAccepted : Obligations.MaskedIntrIsNeverAccepted := by
  intro s t h hif hs
  by_cases hturn : s.turn = .bus
  · have htested : (if s.input.eu.instrLastClock && !s.responseDue then s.intrAllowed s.input.env.intr
        else s.intrAccept) = false := by
      rw [State.intrAllowed_of_masked hif, hs, ite_self]
    cases hreset : s.input.env.reset with
    | true => rw [step_of_reset_next hturn hreset h]; simp
    | false =>
      cases hwait : s.waiting with
      | false => exact (tState_of_not_waiting hturn hreset hwait h).intrAccept.trans htested
      | true =>
        cases tState_of_waiting hturn hreset hwait h with
        | requested _ _ hacc => exact hacc.trans (State.intrAllowed_of_masked hif _)
        | ended _ _ _ _ _ _ _ _ hacc => exact hacc.trans htested
        | goesOn _ _ _ _ _ hacc => exact hacc.trans htested
  · exact euMove_intrAccept hturn h hs

/-! ### Which request is answered -/

/-- A chosen request is one that was made (R188). -/
theorem State.made_of_chosen {s : State} {k : IntKind} (h : s.chosenInterrupt = some k) :
    (k = .nmi → s.nmiPending = true) ∧ (k = .intr → s.intrAccept = true) := by
  unfold State.chosenInterrupt at h
  split at h
  case h_1 hn hi => exact ⟨fun _ => hn, fun _ => hi⟩
  case h_2 hn _ => cases h; exact ⟨fun _ => hn, nofun⟩
  case h_3 _ hi => cases h; exact ⟨nofun, fun _ => hi⟩
  case h_4 => cases h

/-- Where a request was made one is chosen. -/
theorem State.exists_chosen {s : State} (h : s.nmiPending = true ∨ s.intrAccept = true) :
    ∃ k, s.chosenInterrupt = some k := by
  unfold State.chosenInterrupt
  split
  · split
    · exact ⟨_, rfl⟩
    · exact ⟨_, rfl⟩
    · split <;> exact ⟨_, rfl⟩
  · exact ⟨_, rfl⟩
  · exact ⟨_, rfl⟩
  · next hn hi =>
    rw [hn, hi] at h
    rcases h with h | h <;> cases h

/-- The chosen request is answered once the instruction's bus cycles have run (R190). -/
theorem step_answers {s : State} {k : IntKind} (hturn : s.turn = .instrEnd)
    (hk : s.chosenInterrupt = some k) (hdone : s.cyclesDone = true) :
    step s = takeInterrupt k { s with turn := .bus } := by
  rw [step_of_eu (by rw [hturn]; decide), euStep]
  simp only [hturn, hk, hdone, if_true]

/-- Until then it is held. -/
theorem step_holds {s : State} {k : IntKind} (hturn : s.turn = .instrEnd)
    (hk : s.chosenInterrupt = some k) (hdone : s.cyclesDone = false) :
    step s = .next { s with turn := .bus }.holdResponse := by
  rw [step_of_eu (by rw [hturn]; decide), euStep]
  simp only [hturn, hk, hdone]
  rfl

/-- Settles O41: which request is chosen, and where EU stands while its response is due. -/
theorem requestsAreAnsweredByPriority : Obligations.RequestsAreAnsweredByPriority := by
  refine ⟨fun s hturn => ⟨fun hdone => ⟨fun hn hi => ?nmi, fun hn hi => ?intr, fun hn hi => ?both⟩,
      fun hdone hmade => ?held, fun hn hi => ?none⟩,
    fun s t hturn hreset hwait hdue h => ?due,
    fun s t hturn hreset h hstart hnmi => tState_start_with_nmi hturn hreset h hstart hnmi,
    fun s r hbus => by simp [State.cyclesDone, hbus]⟩
  case nmi => exact step_answers hturn (by rw [State.chosenInterrupt, hn, hi]) hdone
  case intr => exact step_answers hturn (by rw [State.chosenInterrupt, hn, hi]) hdone
  case both =>
    refine ⟨fun hp => ?_, fun hp => ?_, ?_⟩
    · exact step_answers hturn (by simp only [State.chosenInterrupt, hn, hi, hp]) hdone
    · exact step_answers hturn (by simp only [State.chosenInterrupt, hn, hi, hp]) hdone
    · obtain ⟨k, hk⟩ := State.exists_chosen (.inl hn)
      cases k
      · exact .inl (step_answers hturn hk hdone)
      · exact .inr (step_answers hturn hk hdone)
  case held =>
    obtain ⟨k, hk⟩ := State.exists_chosen hmade
    rw [step_holds hturn hk hdone]
    constructor <;> intro hwait <;> simp [State.holdResponse, hwait]
  case none =>
    exact step_eq_euAct (.inr ⟨hturn, by rw [State.chosenInterrupt, hn, hi]⟩)
  case due =>
    have n := tState_of_not_waiting hturn hreset hwait h
    refine ⟨fun hdone => ⟨?_, ?_⟩, fun hdone => ⟨?_, ?_⟩, fun hn => ?_, ?_, n.waiting⟩
    · rw [n.turn, hdue, hdone]; rfl
    · rw [n.responseDue, hdone]; simp
    · rw [n.turn, hdue, hdone]; rfl
    · rw [n.responseDue, hdue, hdone]; rfl
    · rw [(tState_frame hturn hreset h).nmiPending, hn]; rfl
    · rw [n.intrAccept, hdue]; simp

theorem intEvent_injective {k k' : IntKind} (h : intEvent k = intEvent k') : k = k' := by
  cases k <;> cases k' <;> cases h <;> rfl

/-- Only a response raises the event of one. -/
theorem step_response {s t : State} {k : IntKind} (h : step s = .next t)
    (hevent : t.events = intEvent k :: s.events) :
    s.turn = .instrEnd ∧ s.chosenInterrupt = some k ∧ s.cyclesDone = true := by
  have hne (x : Event) : s.events ≠ x :: s.events := fun e => List.cons_ne_self x _ e.symm
  by_cases hturn : s.turn = .bus
  · cases hreset : s.input.env.reset with
    | true =>
      rw [step_of_reset_next hturn hreset h, State.tick_events, State.resetStep_events] at hevent
      split at hevent
      · exact absurd hevent (hne _)
      · cases k <;> cases hevent
    | false =>
      rw [(tState_frame hturn hreset h).events] at hevent
      exact absurd hevent (hne _)
  · rw [step_of_eu hturn] at h
    rcases euStep_next h with ⟨hb, -⟩ | ⟨k', hend, hk, hdone, h⟩ | ⟨k', -, -, -, rfl⟩ | ⟨-, h⟩
    · exact absurd hb hturn
    · obtain ⟨e, resp, -, -, rfl⟩ := takeInterrupt_next h
      obtain ⟨heq, -⟩ := List.cons_eq_cons.mp hevent
      exact ⟨hend, intEvent_injective heq ▸ hk, hdone⟩
    · exact absurd hevent (hne _)
    · exact absurd ((State.euAct_actFrame h).events.symm.trans hevent) (hne _)

/-- Settles O43: where a response begins, and what `cyclesDone` says there. -/
theorem interruptsAreTakenAtInstructionEndsOnly :
    Obligations.InterruptsAreTakenAtInstructionEndsOnly := by
  intro s t k h hevent
  obtain ⟨hend, hk, hdone⟩ := step_response h hevent
  obtain ⟨hpending, hbus⟩ := s.cyclesDone_iff.mp hdone
  obtain ⟨hnmi, hintr⟩ := State.made_of_chosen hk
  exact ⟨hend, hk, hpending, hbus, hnmi, hintr,
    (step_of_eu_frame (by rw [hend]; decide) h).bus⟩

/-! ### `int_entry` -/

theorem allSome_cons {α : Type} (x : Option α) (l : List (Option α)) :
    allSome (x :: l) = x.bind fun v => (allSome l).map (v :: ·) := by
  cases x with
  | none => simp [allSome]
  | some v => cases hl : allSome l <;> simp [allSome, hl]

/-- All the values are there exactly if none is missing. -/
theorem allSome_eq_some_iff {α : Type} {l : List (Option α)} {vs : List α} :
    allSome l = some vs ↔ l = vs.map some := by
  induction l generalizing vs with
  | nil => cases vs <;> simp [allSome]
  | cons x l ih => cases vs <;> simp [allSome_cons, Option.bind_eq_some_iff, ih]

theorem allSome_eq_none_iff {α : Type} {l : List (Option α)} : allSome l = none ↔ none ∈ l := by
  induction l with
  | nil => simp [allSome]
  | cons x l ih => cases x <;> simp [allSome_cons, ih]

/-- The register writes of a form, each with its value. -/
theorem writes_of_map_eq {α β γ : Type} {f : β → Option γ} {ws : List (α × β)} {rs : List (α × γ)}
    (h : (ws.map fun w => (f w.2).map fun v => (w.1, v)) = rs.map some) :
    (ws.map fun w => (w.1, f w.2)) = rs.map fun w => (w.1, some w.2) := by
  induction ws generalizing rs with
  | nil => cases rs <;> simp at h ⊢
  | cons w ws ih =>
    cases rs with
    | nil => simp at h
    | cons r rs =>
      simp only [List.map_cons, List.cons.injEq, Option.map_eq_some_iff] at h
      obtain ⟨⟨v, hv, rfl⟩, hrest⟩ := h
      simp only [List.map_cons, hv, ih hrest]

/-- A form has no response exactly if one of its expressions or accesses has none. -/
theorem entryFormResponse_eq_none_iff (s : State) (f : EntryForm) :
    entryFormResponse s f = none ↔
      (∃ w ∈ f.writes, evalEntry s w.2 = none) ∨ (∃ x ∈ f.accesses, entryRequests s x = none) ∨
        ∃ x ∈ f.acks, evalEntry s x = none := by
  have hparts : entryFormResponse s f = none ↔
      allSome (f.writes.map fun w => (evalEntry s w.2).map fun v => (w.1, v)) = none ∨
      allSome (f.accesses.map (entryRequests s)) = none ∨
      allSome (f.acks.map (evalEntry s)) = none := by
    unfold entryFormResponse
    cases allSome (f.writes.map fun w => (evalEntry s w.2).map fun v => (w.1, v)) <;>
      cases allSome (f.accesses.map (entryRequests s)) <;>
      cases allSome (f.acks.map (evalEntry s)) <;> simp
  rw [hparts]
  simp only [allSome_eq_none_iff, List.mem_map, Option.map_eq_none_iff]

/-- Otherwise its response is their values. -/
theorem entryFormResponse_eq_some {s : State} {f : EntryForm} {resp : IntResponse}
    (h : entryFormResponse s f = some resp) :
    f.writes.map (fun w => (w.1, evalEntry s w.2)) = resp.writes.map (fun w => (w.1, some w.2)) ∧
    f.acks.map (evalEntry s) = resp.acks.map some ∧
    ∃ rss : List (List Request), f.accesses.map (entryRequests s) = rss.map some ∧
      resp.requests = rss.flatten := by
  unfold entryFormResponse at h
  split at h
  · next writes requests acks hw hr ha =>
    cases h
    exact ⟨writes_of_map_eq (allSome_eq_some_iff.mp hw), allSome_eq_some_iff.mp ha, requests,
      allSome_eq_some_iff.mp hr, rfl⟩
  · cases h

theorem entryResponse_form {k : IntKind} {nmi intr f : EntryForm}
    (h : (k = .nmi ∧ f = nmi) ∨ (k = .intr ∧ f = intr)) (s : State) :
    entryResponse (.form nmi intr) k s = entryFormResponse s f := by
  rcases h with ⟨rfl, rfl⟩ | ⟨rfl, rfl⟩ <;> rfl

theorem takeInterrupt_eq {k : IntKind} {s : State} {e : IntEntry} {resp : IntResponse}
    (he : s.params.intEntry = some e) (hresp : entryResponse e k s = some resp) :
    takeInterrupt k s = .next { s.consumeRequest k with
      regs := s.regs.writeAll resp.writes
      pending := s.pending ++ resp.requests
      acks := resp.acks
      nest := s.waiting :: s.nest
      waiting := false
      executing := false
      events := intEvent k :: s.events } := by
  simp only [takeInterrupt, he, hresp]

theorem Memory.readWord_eq_none_iff (m : Memory) (a : Addr) :
    m.readWord a = none ↔ a = 0xFFFFF := by
  unfold Memory.readWord
  split
  · next ha => exact ⟨fun _ => ha, fun _ => rfl⟩
  · next ha => exact ⟨nofun, fun h => absurd h ha⟩

theorem Memory.readWord_bytes {m : Memory} {a : Addr} {w : Word} (h : m.readWord a = some w) :
    lowByte w = m.read a.toNat ∧ highByte w = m.read (a + 1).toNat := by
  unfold Memory.readWord at h
  split at h <;> cases h
  exact ⟨lowByte_joinBytes _ _, highByte_joinBytes _ _⟩

theorem evalEntry_mem (s : State) (seg off : EntryExpr) : evalEntry s (.mem seg off) =
    (evalEntry s seg).bind fun v => (evalEntry s off).bind fun w => s.mem.readWord (physAddr v w) := by
  rw [evalEntry]
  cases evalEntry s seg <;> cases evalEntry s off <;> rfl

theorem entryRequests_eq_bind (s : State) (x : EntryAccess) : entryRequests s x =
    (evalEntry s x.seg).bind fun seg => (evalEntry s x.off).bind fun off =>
      (evalEntry s x.data).bind fun v =>
        Access.requests ⟨physAddr seg off, x.wide, opWithWdata x.op v, x.datum⟩ := by
  rw [entryRequests]
  cases evalEntry s x.seg <;> cases evalEntry s x.off <;> cases evalEntry s x.data <;> rfl

/-- Settles O42: the response by `takeInterrupt_eq`, and the value of `int_entry` by its form. -/
theorem responseHandsOverToIntEntry : Obligations.ResponseHandsOverToIntEntry := by
  refine ⟨fun s k => ⟨fun hno => ?without, fun e he => ⟨fun hno => ?refused,
      fun resp hresp => ?response⟩⟩,
    fun k s => ⟨fun nmi intr => by cases k <;> rfl, by cases k <;> rfl, fun nmi intr f hf => ?form⟩,
    evalEntry_mem, fun s w r => ⟨rfl, rfl⟩, fun s x y v w hx hy => ?operations,
    fun m a => ⟨m.readWord_eq_none_iff a, fun w h => Memory.readWord_bytes h⟩, entryRequests_eq_bind⟩
  case without => simp only [takeInterrupt, hno]
  case refused => simp only [takeInterrupt, he, hno]
  case response =>
    refine ⟨_, takeInterrupt_eq he hresp, rfl, ?_, ?_, rfl, rfl, rfl, rfl, rfl, rfl, ?_⟩ <;>
      cases k <;> simp [State.consumeRequest]
  case form =>
    rw [entryResponse_form hf]
    exact ⟨entryFormResponse_eq_none_iff s f, fun resp h => entryFormResponse_eq_some h⟩
  case operations =>
    simp only [evalEntry, hx, hy]
    exact ⟨rfl, rfl, rfl, rfl⟩

end Sys2Proof.Machine
end

section
/-!
PROOFS. The wait: what ends it and what begins it, what an interrupt request does in it, and its execution
again on return.
-/

namespace Sys2Proof.Machine

/-! ### What ends a wait and what begins one -/

/-- EU's move ends a wait by a response alone. -/
theorem euMove_ends_wait {s t : State} (hturn : s.turn ≠ .bus) (h : step s = .next t)
    (hs : s.waiting = true) (ht : t.waiting = false) :
    s.turn = .instrEnd ∧ ∃ k, s.chosenInterrupt = some k ∧ t.events = intEvent k :: s.events := by
  rw [step_of_eu hturn] at h
  rcases euStep_next h with ⟨hb, -⟩ | ⟨k, hend, hk, -, h⟩ | ⟨k, -, -, -, rfl⟩ | ⟨-, h⟩
  · exact absurd hb hturn
  · obtain ⟨e, resp, -, -, rfl⟩ := takeInterrupt_next h
    exact ⟨hend, k, hk, rfl⟩
  · rw [State.holdResponse_waiting] at ht
    exact absurd (hs.symm.trans ht) (by decide)
  · rcases (State.euAct_actFrame h).wait with ⟨hw, -⟩ | ⟨hw, -⟩
    · rw [hw] at ht
      exact absurd (hs.symm.trans ht) (by decide)
    · rw [hw] at ht
      cases ht

/-- Only 9BH is decoded as WAIT (R81). -/
theorem byte_of_decodeByte {b : Byte} {i : Instr} (h : decodeByte b = .ok i) : b = 0x9B := by
  unfold decodeByte at h
  split at h
  · assumption
  · cases h

/-- EU's move begins a wait by WAIT, or by a return to one. -/
theorem euMove_begins_wait {s t : State} (hturn : s.turn ≠ .bus) (h : step s = .next t)
    (hs : s.waiting = false) (ht : t.waiting = true) :
    (s.turn = .start ∨ (s.turn = .instrEnd ∧ s.chosenInterrupt = none)) ∧
    (s.action = .instr 0x9B ∨ (s.action = .ret ∧ ∃ o, s.nest = true :: o)) := by
  rw [step_of_eu hturn] at h
  rcases euStep_next h with ⟨hb, -⟩ | ⟨k, -, -, -, h⟩ | ⟨k, -, -, -, rfl⟩ | ⟨hplace, h⟩
  · exact absurd hb hturn
  · obtain ⟨e, resp, -, -, rfl⟩ := takeInterrupt_next h
    cases ht
  · rw [State.holdResponse_waiting] at ht
    exact absurd (hs.symm.trans ht) (by decide)
  · refine ⟨hplace, ?_⟩
    rcases State.euAct_next h with ⟨-, rfl⟩ | ⟨-, ha, rfl⟩ | ⟨-, b, ha, hb, -⟩ | ⟨-, b, -, -, rfl⟩
    · exact absurd (hs.symm.trans ht) (by decide)
    · rcases returnFromInterrupt_cases { s with turn := .bus, program := s.program.tail, executing := true }
        with ⟨-, e⟩ | ⟨o, hn, -⟩ | ⟨o, -, e⟩
      · rw [e] at ht; exact absurd (hs.symm.trans ht) (by decide)
      · exact .inr ⟨ha, o, hn⟩
      · rw [e] at ht; exact absurd (hs.symm.trans ht) (by decide)
    · exact .inl (byte_of_decodeByte hb ▸ ha)
    · exact absurd (hs.symm.trans ht) (by decide)

/-- No T state begins a wait. -/
theorem tState_begins_no_wait {s t : State} (hturn : s.turn = .bus) (h : step s = .next t)
    (hs : s.waiting = false) : t.waiting = false := by
  cases hreset : s.input.env.reset with
  | true => rw [step_of_reset_next hturn hreset h]; simp
  | false => exact (tState_of_not_waiting hturn hreset hs h).waiting

/-- Settles O45: the wait through a T state by `WaitTState`, through EU's move by `euMove_ends_wait` and
`euMove_begins_wait`. -/
theorem onlyTheseEventsEndTheWait : Obligations.OnlyTheseEventsEndTheWait := by
  refine ⟨fun s t hholds h hs ht => ?ends, fun s t h hs ht => ?begins⟩
  case ends =>
    by_cases hturn : s.turn = .bus
    · cases hreset : s.input.env.reset with
      | true => exact .inl ⟨hturn, rfl⟩
      | false =>
        refine .inr (.inl ⟨hturn, ?_⟩)
        cases tState_of_waiting hturn hreset hs h with
        | requested _ _ _ _ hw => simpa [ht] using hw.symm
        | ended _ htest hsam => exact ⟨htest, hsam⟩
        | goesOn _ _ hw => rw [hw] at ht; cases ht
    · obtain ⟨hend, hk⟩ := euMove_ends_wait hturn h hs ht
      refine .inr (.inr ⟨hend, ?_, hk⟩)
      simpa [State.waitHolds, hs, hend] using hholds
  case begins =>
    by_cases hturn : s.turn = .bus
    · rw [tState_begins_no_wait hturn h hs] at ht
      cases ht
    · exact euMove_begins_wait hturn h hs ht

/-! ### TEST and interrupt requests in a wait -/

theorem State.requested_eq_false {s : State} (hpending : s.nmiPending = false)
    (hnmi : s.nmiPrev = true ∨ s.input.env.nmi = false)
    (hintr : s.input.env.intr = false ∨ s.regs.ifFlag = false) : s.requested = false := by
  rw [State.requested, hpending, State.intrAllowed]
  rcases hnmi with h | h <;> rcases hintr with h' | h' <;> simp [h, h']

theorem State.requested_eq_true {s : State} (h : s.nmiPending = true ∨
    (s.nmiPrev = false ∧ s.input.env.nmi = true) ∨
    (s.input.env.intr = true ∧ s.regs.ifFlag = true)) : s.requested = true := by
  rw [State.requested, State.intrAllowed]
  rcases h with h | ⟨h, h'⟩ | ⟨h, h'⟩
  · simp [h]
  · simp [h, h']
  · simp [h, h']

/-- Settles O46: with no request a T state of the wait ends it or lets it go on, by TEST. -/
theorem testLowEndsTheWait : Obligations.TestLowEndsTheWait := by
  intro s t hturn hreset hwait hpending hnmi hintr h
  have hnone := State.requested_eq_false hpending hnmi hintr
  cases tState_of_waiting hturn hreset hwait h with
  | requested hreq => rw [hnone] at hreq; cases hreq
  | ended _ htest _ hw _ _ hplace =>
    refine ⟨fun _ _ => ⟨hw, ?_⟩, fun hhigh => by rw [htest] at hhigh; cases hhigh⟩
    rw [hplace]
    cases s.input.eu.instrLastClock <;> decide
  | goesOn _ hor hw hplace =>
    refine ⟨fun hlow hsam => ?_, fun _ => ⟨hw, hplace⟩⟩
    rw [hlow, hsam] at hor
    rcases hor with h | h <;> cases h

/-- Settles O47: the request is the first thing the wait's share of the T state looks at. -/
theorem interruptDuringWaitIsRefused : Obligations.InterruptDuringWaitIsRefused := by
  intro s hturn hstrap hreset hwait hpar hreq
  have hwait' : (s.leaveReset.sampleInterrupts s.input).waiting = true := hwait
  have hreq' : ((s.leaveReset.sampleInterrupts s.input).nmiPending ||
      (s.leaveReset.sampleInterrupts s.input).intrAllowed s.input.env.intr) = true :=
    State.requested_eq_true hreq
  have hpar' : ¬ (s.leaveReset.sampleInterrupts s.input).params.waitInterruptible = true := by
    simp [hpar]
  have hrefused : (s.leaveReset.sampleInterrupts s.input).waitStep s.input =
      .refused .interruptDuringWait := by
    rw [State.waitStep, if_pos hwait', if_pos hreq', if_neg hpar']
  rw [step_eq_around hturn hstrap hreset fun v _ => rfl, State.around, hrefused]
  rfl

/-! ### The response in a wait, and the return -/

theorem returnFromInterrupt_true {s : State} {o : List Bool} (h : s.nest = true :: o) :
    returnFromInterrupt s = { s with nest := o }.beginWait := by
  simp only [returnFromInterrupt, h]

theorem returnFromInterrupt_false {s : State} {o : List Bool} (h : s.nest = false :: o) :
    returnFromInterrupt s = { s with nest := o } := by
  simp only [returnFromInterrupt, h]

theorem returnFromInterrupt_nil {s : State} (h : s.nest = []) : returnFromInterrupt s = s := by
  simp only [returnFromInterrupt, h]

/-- The response in a wait leaves it, and remembers it as the innermost (R174). -/
theorem takeInterrupt_wait {s t : State} {k : IntKind} (h : takeInterrupt k s = .next t) :
    t.waiting = false ∧ t.nest = s.waiting :: s.nest := by
  obtain ⟨e, resp, -, -, rfl⟩ := takeInterrupt_next h
  exact ⟨rfl, rfl⟩

/-- EU in the execution of the instruction, or the return, that it begins. -/
def State.acting (s : State) : State :=
  { s with turn := .bus, program := s.program.tail, executing := true }

/-- A step in which EU returns. -/
theorem step_of_return {s : State} (hwait : s.waiting = false) (ha : s.action = .ret)
    (hplace : s.turn = .start ∨ (s.turn = .instrEnd ∧ s.chosenInterrupt = none)) :
    step s = .next (returnFromInterrupt s.acting) := by
  have hwait' : ({ s with turn := .bus } : State).waiting = false := hwait
  rw [step_eq_euAct hplace, State.euAct_ret hwait' ha]
  rfl

/-- Settles O48: a request in the wait by `WaitTState`; what the response remembers; and the return, by
what is remembered. -/
theorem interruptedWaitIsExecutedAgain : Obligations.InterruptedWaitIsExecutedAgain := by
  refine ⟨fun s t hturn hreset hwait hpar hreq h => ?begins, fun s t k hwait h => ?left,
    fun s hwait ha hplace => ?returns⟩
  case begins =>
    have hreq' := State.requested_eq_true hreq
    have f := tState_frame hturn hreset h
    cases tState_of_waiting hturn hreset hwait h with
    | requested _ _ hacc hplace hw =>
      refine ⟨hplace, by rw [f.nmiPending]; simp, hacc, ?_, by rw [hw]; simp⟩
      have hmade : t.nmiPending = true ∨ t.intrAccept = true := by
        rw [f.nmiPending, hacc, ← Bool.or_eq_true]
        exact hreq'
      obtain ⟨k, hk⟩ := State.exists_chosen hmade
      rw [hk]
      rfl
    | ended hnone => rw [hreq'] at hnone; cases hnone
    | goesOn hnone => rw [hreq'] at hnone; cases hnone
  case left =>
    obtain ⟨hw, hnest⟩ := takeInterrupt_wait h
    rw [hwait] at hnest
    rw [returnFromInterrupt_true hnest]
    exact ⟨hw, rfl, rfl, rfl⟩
  case returns =>
    rw [step_of_return hwait ha hplace]
    refine ⟨fun o ho => ?_, fun o ho => ?_, fun ho => ?_⟩
    · rw [returnFromInterrupt_true (s := s.acting) ho]
      exact ⟨rfl, _, rfl, rfl, rfl, rfl⟩
    · exact congrArg Host.Outcome.next (returnFromInterrupt_false (s := s.acting) ho)
    · exact congrArg Host.Outcome.next (returnFromInterrupt_nil (s := s.acting) ho)

end Sys2Proof.Machine
end

section
/-!
PROOFS. RD and the data lines by the T state, and how an address is formed.
-/

namespace Sys2Proof

/-! ### Levels -/

theorem Level.ofBool_ne_z (b : Bool) : Level.ofBool b ≠ .z := by cases b <;> decide

/-- AD`k` of a selected lane carries bit `k` of the word (R134). -/
theorem selectedLevels_getElem? (free : Nat → Level) {low high : Bool} (w : Word) {k : Nat}
    (hk : k < 16) (hsel : (if k < 8 then low else high) = true) :
    (selectedLevels free low high w)[k]? = some (Level.ofBool (w.getLsbD k)) := by
  rw [selectedLevels, List.getElem?_map, List.getElem?_range hk, Option.map_some, if_pos hsel]

theorem getLsbD_lowByte (w : Word) {k : Nat} (hk : k < 8) : (lowByte w).getLsbD k = w.getLsbD k := by
  simp [lowByte, hk]

theorem getLsbD_highByte (w : Word) {k : Nat} (hk : k < 8) :
    (highByte w).getLsbD k = w.getLsbD (8 + k) := by
  simp [highByte, hk]

namespace Machine

/-! ### RD -/

theorem State.pins_of_reset {s : State} (h : s.input.env.reset = true) :
    s.pins = freePins s.clock (Level.ofBool (Config.freeBit s.clock 32)) := by
  rw [State.pins, if_pos h]

theorem State.pins_of_idle {s : State} (hbus : s.bus = .idle) (hreset : s.input.env.reset = false) :
    s.pins = freePins s.clock .high := by
  rw [State.pins, hreset, hbus]; rfl

/-- In the data phase RD is low in every T state of a read but T4 (R103, R104). -/
theorem State.dataPhasePins_rd (s : State) (ph : Phase) (r : Request) :
    (s.dataPhasePins ph r).rd = if opWdata r.op = none ∧ ph ≠ .t4 then .low else .high := by
  unfold State.dataPhasePins
  cases hw : opWdata r.op with
  | some w => simp
  | none => cases ph <;> simp

/-- Outside RESET RD is low exactly in T2, T3 and TW of a read. -/
theorem State.rd_low_iff {s : State} (hreset : s.input.env.reset = false) :
    s.pins.rd = .low ↔ ∃ ph r, s.bus = .cycle ph r ∧ opWdata r.op = none ∧
      (ph = .t2 ∨ ph = .t3 ∨ ph = .tw) := by
  cases hbus : s.bus with
  | idle =>
    rw [State.pins_of_idle hbus hreset]
    exact ⟨nofun, nofun⟩
  | cycle ph r =>
    have hcycle (p : Phase → Request → Prop) :
        (∃ ph' r', Bus.cycle ph r = .cycle ph' r' ∧ p ph' r') ↔ p ph r :=
      ⟨fun ⟨_, _, e, h⟩ => by cases e; exact h, fun h => ⟨ph, r, rfl, h⟩⟩
    rw [hcycle fun ph' r' => opWdata r'.op = none ∧ (ph' = .t2 ∨ ph' = .t3 ∨ ph' = .tw)]
    cases ph with
    | t1 => rw [State.pins_of_t1 hbus hreset]; simp [addressPhasePins]
    | t2 | t3 | tw | t4 =>
      rw [State.pins_of_data_phase hbus (by decide) hreset, State.dataPhasePins_rd]
      simp

theorem State.rd_ne_z (s : State) : s.pins.rd ≠ .z := by
  cases hreset : s.input.env.reset with
  | true => rw [State.pins_of_reset hreset]; exact Level.ofBool_ne_z _
  | false =>
    cases hbus : s.bus with
    | idle => rw [State.pins_of_idle hbus hreset]; exact nofun
    | cycle ph r =>
      by_cases hph : ph = .t1
      · subst hph
        rw [State.pins_of_t1 hbus hreset]; exact nofun
      · rw [State.pins_of_data_phase hbus hph hreset, State.dataPhasePins_rd]
        split <;> exact nofun

/-- Settles O57: RD by `State.rd_low_iff`; in the data phase of a read the CPU leaves AD15~AD0 undriven. -/
theorem rdMarksReads : Obligations.RdMarksReads := by
  refine fun s => ⟨s.rd_ne_z, fun hreset => ⟨State.rd_low_iff hreset, fun ph r hbus hph hread => ?_⟩⟩
  rw [State.pins_of_data_phase hbus hph hreset]
  simp only [State.dataPhasePins, hread]

/-! ### The data lines -/

/-- In the data phase of a write both sides of the lines carry the selected lanes (R104). -/
theorem State.dataPhasePins_write {s : State} {ph : Phase} {r : Request} {w : Word}
    (hw : opWdata r.op = some w) :
    (s.dataPhasePins ph r).adCpu = selectedLevels (Config.freeLevel s.clock) r.low r.high w ∧
    (s.dataPhasePins ph r).adBus = selectedLevels (Config.freeLine s.clock) r.low r.high w := by
  unfold State.dataPhasePins
  rw [hw]
  exact ⟨rfl, rfl⟩

/-- In T4 of a read the lines carry the selected lanes of the data bus (R100). -/
theorem State.dataPhasePins_read {s : State} {r : Request} (hread : opWdata r.op = none) :
    (s.dataPhasePins .t4 r).adBus =
      selectedLevels (Config.freeLine s.clock) r.low r.high (s.busWord r) := by
  unfold State.dataPhasePins
  rw [hread]

/-- What the T state T4 of a read delivers is what memory, ports or `int_entry` held when it began. -/
theorem tState_rdata {s t : State} {r : Request} (hturn : s.turn = .bus)
    (hreset : s.input.env.reset = false) (hbus : s.bus = .cycle .t4 r) (hread : opWdata r.op = none)
    (h : step s = .next t) :
    (r.low = true → lowByte t.rdata = s.busByte r.op (evenOf r.addr)) ∧
    (r.high = true → highByte t.rdata = s.busByte r.op (oddOf r.addr)) := by
  obtain ⟨s1, v, w, -, hv, -, hw, -, rfl⟩ := tState_next hturn hreset h
  have hvbus : v.bus = .cycle .t4 r := hv.bus.trans hbus
  rw [State.busStep_of_t4 hvbus] at hw
  obtain ⟨u, hu, ht⟩ := Out.andThen_next.mp hw
  have hbyte (a : Addr) : v.busByte r.op a = s.busByte r.op a := by
    simp only [State.busByte, hv.mem, hv.io, hv.params, hv.clock, hv.acks]
  have hrdata : ((w.euEffects s.waiting s.input.eu).tick).rdata = u.rdata := by
    rcases State.startOrIdle_next ht with ⟨-, rfl⟩ | ⟨r', -, -, rfl⟩ <;> simp
  rw [hrdata, ← hbyte, ← hbyte]
  exact State.effect_rdata hu hread

/-- Settles O58: the lanes of a write by its data; those of a read by `tState_rdata`, byte by byte. -/
theorem dataLinesCarryTheSelectedLanes : Obligations.DataLinesCarryTheSelectedLanes := by
  intro s ph r hbus hreset
  refine ⟨fun w hph hw => ?write, fun t hph hturn hread h => ?read⟩
  case write =>
    obtain ⟨hcpu, hlines⟩ := State.dataPhasePins_write (s := s) (ph := ph) hw
    rw [State.pins_of_data_phase hbus hph hreset, hcpu, hlines]
    refine ⟨fun hl k hk => ?_, fun hh k hk8 hk => ?_⟩
    · exact ⟨selectedLevels_getElem? _ w (by omega) (by rw [if_pos hk, hl]),
        selectedLevels_getElem? _ w (by omega) (by rw [if_pos hk, hl])⟩
    · exact ⟨selectedLevels_getElem? _ w hk (by rw [if_neg (by omega), hh]),
        selectedLevels_getElem? _ w hk (by rw [if_neg (by omega), hh])⟩
  case read =>
    subst hph
    obtain ⟨hlow, hhigh⟩ := tState_rdata hturn hreset hbus hread h
    rw [State.pins_of_data_phase hbus (by decide) hreset, State.dataPhasePins_read hread]
    refine ⟨fun hl k hk => ?_, fun hh k hk8 hk => ?_⟩
    · rw [selectedLevels_getElem? _ _ (by omega) (by rw [if_pos hk, hl]), ← getLsbD_lowByte _ hk,
        ← getLsbD_lowByte t.rdata hk, hlow hl, State.busWord, lowByte_joinBytes]
    · obtain ⟨j, rfl⟩ := Nat.exists_eq_add_of_le hk8
      rw [selectedLevels_getElem? _ _ hk (by rw [if_neg (by omega), hh]),
        ← getLsbD_highByte _ (by omega), ← getLsbD_highByte t.rdata (by omega), hhigh hh,
        State.busWord, highByte_joinBytes]

/-! ### Addresses -/

/-- Settles O59: the sum of two zero-extended words, at 20 bits. -/
theorem addressesAreSegmentTimes16PlusOffset : Obligations.AddressesAreSegmentTimes16PlusOffset := by
  refine ⟨fun seg off => ?_, by decide⟩
  simp [physAddr]

end Machine

end Sys2Proof
end
